-- ==== Sys2Proof/Word.lean ====
section
/-! DEFINITION. The words of the machine, and the enumerations the spec names: register numbers, register halves,
Exception levels, Security states, PSTATE. -/

namespace Sys2Proof

/-- A byte of memory. -/
abbrev Byte := BitVec 8

/-- An instruction word: 32 bits, bit 31 the leftmost of the diagram (R7, R48). -/
abbrev Word := BitVec 32

/-- The number of a SIMD&FP register, 0 to 31 (R21). Number 31 is an ordinary register (R58). -/
abbrev VReg := Fin 32

/-- The half of a 128-bit register that is read, `part` of R52: `lower` is part 0, bits 63:0; `upper` is part 1,
bits 127:64 (R25). -/
inductive Half where
  | lower
  | upper
  deriving DecidableEq, Repr, Inhabited

/-- The Exception levels (R31; PRESUMED, log 23: the source lists none, the spec's general knowledge lists these). -/
inductive EL where
  | el0
  | el1
  | el2
  | el3
  deriving DecidableEq, Repr, Inhabited

/-- The Exception levels a trap can be taken to: one for each of the three trap registers (R83, R91; DEDUCED, log 23). -/
inductive HandlerEL where
  | el1
  | el2
  | el3
  deriving DecidableEq, Repr, Inhabited

/-- The Security states (R31; PRESUMED, log 23). -/
inductive SecurityState where
  | secure
  | nonSecure
  | realm
  | root
  deriving DecidableEq, Repr, Inhabited

/-- The processor state the spec names: the flags N, Z, C, V (R29), DIT (R30), the Exception level (R31), and the
fields that taking an exception changes, SP, D, A, I, F, nRW (R88, R89). The spec gives no layout, so it is held field
by field (log 22). -/
structure Pstate where
  n : Bool
  z : Bool
  c : Bool
  v : Bool
  dit : Bool
  el : EL
  /-- `PSTATE.SP`: true selects SP_ELx, false SP_EL0. -/
  spSel : Bool
  d : Bool
  a : Bool
  i : Bool
  f : Bool
  /-- `PSTATE.nRW`: false is AArch64, true is AArch32. -/
  nRW : Bool
  deriving DecidableEq, Repr, Inhabited

end Sys2Proof
end

