-- ==== Sys2Proof/Config.lean ====
section
/-! DEFINITION. The implementation parameters of R6 and the free values of the model. A parameter the spec leaves OPEN is
plain data that `State.params` carries, so that a statement about every state quantifies over it (log 1). -/

namespace Sys2Proof

/-- `INSTR_BITS` of R6. -/
def Config.instrBits : Nat := 32

/-- `datasize` of R52: the constant 64 for both values of Q. -/
def Config.datasize : Nat := 64

/-- `HAVE_SVE_OR_SME` of R6: false, the spec's own choice D4 (R34, log 18). No definition reads it: the registers are
exactly 128 bits and no streaming-mode check is made. -/
def Config.haveSveOrSme : Bool := false

/-- What `FPSIMD_CHECK` is a function of: exactly these five inputs (R16, D2). -/
structure CheckInputs where
  cpacrEl1 : BitVec 64
  cptrEl2 : BitVec 64
  cptrEl3 : BitVec 64
  securityState : SecurityState
  el : EL
  deriving DecidableEq, Repr, Inhabited

/-- The verdict of `CheckFPAdvSIMDEnabled64()` (R16). -/
inductive Verdict where
  | enabled
  | trap (target : HandlerEL)
  deriving DecidableEq, Repr, Inhabited

/-- The open parameter `FPSIMD_CHECK` (R6, D2) as plain data (log 2). -/
inductive FpsimdCheck where
  /-- Any function, given by the rows at which it differs from one verdict; the first row that fits counts. -/
  | table (rows : List (CheckInputs × Verdict)) (otherwise : Verdict)
  /-- The usual algorithm of R84 over the fields of R32, one instance of the parameter (log 28). -/
  | usual
  deriving DecidableEq, Repr, Inhabited

/-- What R84's algorithm and R82's and R83's routing read beside the five inputs; fixed for a run (log 28). -/
structure Platform where
  /-- HCR_EL2.E2H. -/
  hcrE2H : Bool
  /-- HCR_EL2.TGE. -/
  hcrTGE : Bool
  /-- The Security states in which EL2 is implemented and enabled. -/
  el2EnabledIn : List SecurityState
  /-- Whether EL3 is implemented. -/
  el3Implemented : Bool
  deriving DecidableEq, Repr, Inhabited

/-- The parameters the spec leaves OPEN: those of R6, and what R33 and R84 read beside them. No instruction changes
them. -/
structure Params where
  /-- `HAVE_PMULL64`: FEAT_PMULL is implemented (R3, R15, C1, D1). -/
  havePmull64 : Bool
  /-- FEAT_AES is implemented, as it is wherever FEAT_PMULL is (C1). Only the identification register tells it (R33,
  log 25). -/
  haveAes : Bool
  /-- `FPSIMD_CHECK` (R16, D2). -/
  fpsimdCheck : FpsimdCheck
  /-- `HAVE_DIT`: PSTATE.DIT exists. No functional rule reads it (R6). -/
  haveDit : Bool
  platform : Platform
  deriving DecidableEq, Repr, Inhabited

/-- The parameters `State.reset` carries: DESIGN CHOICE, unsafe (log 1); the spec fixes none of them. -/
def Config.launchParams : Params where
  havePmull64 := true
  haveAes := true
  fpsimdCheck := .table [] .enabled
  haveDit := true
  platform := { hcrE2H := false, hcrTGE := false, el2EnabledIn := [], el3Implemented := true }

/-- Free value: what SIMD&FP register `i` holds at reset (R36, U7, D23; log 3). -/
opaque Config.resetV : VReg → BitVec 128

/-- Free value: N, Z, C, V at reset (R36; log 4). -/
opaque Config.resetFlag : Fin 4 → Bool

/-- Free value: CPACR_EL1, CPTR_EL2, CPTR_EL3 at reset (R36; log 4). -/
opaque Config.resetSys : Fin 3 → BitVec 64

/-- Free value: X0 to X30 at reset (R27; log 4). -/
opaque Config.resetX : Fin 31 → BitVec 64

/-- Free value: SP_EL0 to SP_EL3 at reset (R92; log 4). -/
opaque Config.resetSp : Fin 4 → BitVec 64

/-- Free value: ELR, ESR, FAR, VBAR of each level at reset (R89; log 4). -/
opaque Config.resetBank : HandlerEL → Fin 4 → BitVec 64

/-- Free value: SPSR of each level at reset (R89; log 4). -/
opaque Config.resetSpsr : HandlerEL → Pstate

/-- Free value: what FAR_ELx holds after an exception that records no faulting address (R82, R83), from what it held
and the address of the instruction (log 22). -/
opaque Config.farAfterEntry : BitVec 64 → BitVec 64 → BitVec 64

end Sys2Proof
end

