-- ==== Sys2Proof/Syntax.lean ====
section
/-! DEFINITION. The instructions: one constructor for each of the seven rows of R55 (opcode_table.json). -/

namespace Sys2Proof

/-- An instruction of the page. `d`, `n`, `m` are the register numbers of `Rd`, `Rn`, `Rm`; `q` is the bit `Q` of a
reserved row, whose two values share the row (R55). -/
inductive Instr where
  /-- Row 1: `PMULL Vd.8H, Vn.8B, Vm.8B` (R69). -/
  | pmullB8 (d n m : VReg)
  /-- Row 2: `PMULL2 Vd.8H, Vn.16B, Vm.16B` (R70). -/
  | pmull2B16 (d n m : VReg)
  /-- Row 3: `PMULL Vd.1Q, Vn.1D, Vm.1D`, needs HAVE_PMULL64 (R71). -/
  | pmullD1 (d n m : VReg)
  /-- Row 4: `PMULL2 Vd.1Q, Vn.2D, Vm.2D`, needs HAVE_PMULL64 (R72). -/
  | pmull2D2 (d n m : VReg)
  /-- Row 5: UNDEFINED, `size = 01` (R53). -/
  | undefinedSize01 (q : BitVec 1) (d n m : VReg)
  /-- Row 6: UNDEFINED, `size = 10` (R53). -/
  | undefinedSize10 (q : BitVec 1) (d n m : VReg)
  /-- Row 7: UNDEFINED, `size = 11` where HAVE_PMULL64 is false (R54). -/
  | undefinedSize11 (q : BitVec 1) (d n m : VReg)
  deriving DecidableEq, Repr, Inhabited

end Sys2Proof
end

