-- ==== Sys2Proof/WellFormed.lean ====
section
/-! DEFINITION. Which instructions an implementation has: the column `needs` of R55. Register numbers are in range by
their type (R74). -/

namespace Sys2Proof

/-- The row's `needs` of R55, given HAVE_PMULL64: rows 3 and 4 exist with it, row 7 without it, the others always. -/
def Instr.wellFormed (havePmull64 : Bool) : Instr → Bool
  | .pmullB8 _ _ _ => true
  | .pmull2B16 _ _ _ => true
  | .pmullD1 _ _ _ => havePmull64
  | .pmull2D2 _ _ _ => havePmull64
  | .undefinedSize01 _ _ _ _ => true
  | .undefinedSize10 _ _ _ _ => true
  | .undefinedSize11 _ _ _ _ => !havePmull64

end Sys2Proof
end

