-- ==== Sys2Proof/Decode.lean ====
section
/-! DEFINITION. Decoding (R48 to R56), total on words and on bytes, and after it the encoder (R64). -/

namespace Sys2Proof

/-- Why decoding refuses, by name. -/
inductive DecodeError where
  /-- Not PMULL/PMULL2: no rule in this spec (R56). -/
  | notPmull (w : Word)
  /-- Fewer than the four bytes of an instruction (R48). -/
  | truncated
  deriving DecidableEq, Repr

/-- A 1 at each fixed bit of the format (R50). -/
def patternMask : Word := 0xBF20FC00#32

/-- The values of the fixed bits (R50). -/
def patternMatch : Word := 0x0E20E000#32

/-- The five fields of a word (R51). -/
structure Fields where
  q : BitVec 1
  size : BitVec 2
  rm : BitVec 5
  rn : BitVec 5
  rd : BitVec 5
  deriving DecidableEq, Repr

/-- Field extraction (R51). -/
def fieldsOf (w : Word) : Fields where
  q := w.extractLsb' 30 1
  size := w.extractLsb' 22 2
  rm := w.extractLsb' 16 5
  rn := w.extractLsb' 5 5
  rd := w.extractLsb' 0 5

/-- `UInt` of a register field (R9, R52). -/
def regOf (b : BitVec 5) : VReg := ⟨b.toNat, b.isLt⟩

/-- The row of R55 that the fields select, in the order of R52's tests. -/
def rowOf (havePmull64 : Bool) (f : Fields) : Instr :=
  let d := regOf f.rd
  let n := regOf f.rn
  let m := regOf f.rm
  if f.size = 0b01#2 then .undefinedSize01 f.q d n m
  else if f.size = 0b10#2 then .undefinedSize10 f.q d n m
  else if f.size = 0b11#2 then
    if !havePmull64 then .undefinedSize11 f.q d n m
    else if f.q = 0#1 then .pmullD1 d n m
    else .pmull2D2 d n m
  else if f.q = 0#1 then .pmullB8 d n m
  else .pmull2B16 d n m

/-- Decode a word: an instruction of the page exactly when the fixed bits fit (R50), refused otherwise (R56). The
parameter HAVE_PMULL64 chooses between rows 3, 4 and row 7 and nothing else does (R66). -/
def decode (havePmull64 : Bool) (w : Word) : Except DecodeError Instr :=
  if w &&& patternMask = patternMatch then .ok (rowOf havePmull64 (fieldsOf w)) else .error (.notPmull w)

/-- The word of four bytes at ascending addresses, little-endian (R39, D10; log 8). -/
def wordOfBytes (b0 b1 b2 b3 : Byte) : Word := b3 ++ b2 ++ b1 ++ b0

/-- The four bytes of a word at ascending addresses (R39, D10; log 8). -/
def bytesOfWord (w : Word) : List Byte :=
  [w.extractLsb' 0 8, w.extractLsb' 8 8, w.extractLsb' 16 8, w.extractLsb' 24 8]

/-- Decode the first instruction of a list of bytes and give the rest of the list: every instruction is four bytes
(R48). -/
def decodeBytes (havePmull64 : Bool) : List Byte → Except DecodeError (Instr × List Byte)
  | b0 :: b1 :: b2 :: b3 :: rest =>
    match decode havePmull64 (wordOfBytes b0 b1 b2 b3) with
    | .ok i => .ok (i, rest)
    | .error e => .error e
  | _ => .error .truncated

/-- A register number as a 5-bit field (R61). -/
def bitsOfReg (r : VReg) : BitVec 5 := BitVec.ofNat 5 r.val

/-- Put fields into the format (R64). -/
def encodeFields (q : BitVec 1) (size : BitVec 2) (d n m : VReg) : Word :=
  patternMatch ||| (q.setWidth 32 <<< 30) ||| (size.setWidth 32 <<< 22) ||| ((bitsOfReg m).setWidth 32 <<< 16)
    ||| ((bitsOfReg n).setWidth 32 <<< 5) ||| (bitsOfReg d).setWidth 32

/-- The word of an instruction (R55, R64). -/
def encode : Instr → Word
  | .pmullB8 d n m => encodeFields 0#1 0b00#2 d n m
  | .pmull2B16 d n m => encodeFields 1#1 0b00#2 d n m
  | .pmullD1 d n m => encodeFields 0#1 0b11#2 d n m
  | .pmull2D2 d n m => encodeFields 1#1 0b11#2 d n m
  | .undefinedSize01 q d n m => encodeFields q 0b01#2 d n m
  | .undefinedSize10 q d n m => encodeFields q 0b10#2 d n m
  | .undefinedSize11 q d n m => encodeFields q 0b11#2 d n m

/-- The word of an instruction whose low `nbits` bits are `w` and whose other bits are 0. -/
def tableWord (nbits w : Nat) : Word := BitVec.ofNat 32 (w % 2 ^ nbits)

/-- The instruction the decoder reads from a table row's word, laid out as bytes in memory order, with HAVE_PMULL64 as
`Config.launchParams` has it (log 14). -/
def decodeTableWord (nbits w : Nat) : Option Instr :=
  match decodeBytes Config.launchParams.havePmull64 (bytesOfWord (tableWord nbits w)) with
  | .ok (i, _) => some i
  | .error _ => none

end Sys2Proof
end

