-- ==== Sys2Proof/Machine/State.lean ====
section
/-! DEFINITION. The state of the machine, its faults and refusals, and the state after reset. -/

namespace Sys2Proof.Machine

/-- The registers banked for one handler level (R82, R89, R92); their widths are the model's (log 22). -/
structure ElBank where
  /-- ELR_ELx: the saved pc. -/
  elr : BitVec 64
  /-- SPSR_ELx: the saved PSTATE. -/
  spsr : Pstate
  /-- ESR_ELx: the syndrome. -/
  esr : BitVec 64
  /-- FAR_ELx: the fault address. -/
  far : BitVec 64
  /-- VBAR_ELx: the vector base. -/
  vbar : BitVec 64
  deriving DecidableEq, Repr, Inhabited

/-- Memory: the bytes something has placed, by strictly rising address. An address not listed has no value (log 7). -/
abbrev Memory := List Host.Cell

/-- The state of the processing element (R19, R20) and of the program text it fetches from (R47). -/
structure State where
  /-- V0 to V31 (R21). -/
  v : Vector (BitVec 128) 32
  /-- The address of the instruction being executed (R28). -/
  pc : BitVec 64
  /-- N, Z, C, V (R29), DIT (R30), the Exception level (R31) and the fields of R89. -/
  pstate : Pstate
  /-- The current Security state (R31). -/
  securityState : SecurityState
  /-- CPACR_EL1 (R32). -/
  cpacrEl1 : BitVec 64
  /-- CPTR_EL2 (R32). -/
  cptrEl2 : BitVec 64
  /-- CPTR_EL3 (R32). -/
  cptrEl3 : BitVec 64
  /-- ID_AA64ISAR0_EL1, read-only: its field AES, bits 7:4, discloses FEAT_PMULL and FEAT_AES (R33). Its width is the
  model's: the spec gives none, the family has 64 bits (PRESUMED, log 25). -/
  idAa64isar0El1 : BitVec 64
  /-- X0 to X30 (R27). -/
  x : Vector (BitVec 64) 31
  /-- SP_EL0 to SP_EL3 (R92). -/
  sp : Vector (BitVec 64) 4
  /-- The registers banked for EL1 (R92). -/
  bank1 : ElBank
  /-- The registers banked for EL2 (R92). -/
  bank2 : ElBank
  /-- The registers banked for EL3 (R92). -/
  bank3 : ElBank
  /-- The program text, byte by byte (R38, R39, R47). -/
  mem : Memory
  /-- The parameters of R6, fixed for the run (log 1). -/
  params : Params
  deriving DecidableEq, Repr

/-- The two faults of R81 with the record of R87: pc and word, and the trap's target. A fault is terminal (R89). -/
inductive Fault where
  /-- `Fault(Undefined)` (R82). Raised by the meanings of the UNDEFINED rows and, without HAVE_PMULL64, of rows 3 and 4.
  Safe: the hardware takes an exception where the model stops (log 11). -/
  | undefined (pc : BitVec 64) (word : Word)
  /-- `Fault(FPAccessTrap(target))` (R83). Raised by the four PMULL meanings when FPSIMD_CHECK answers `Trap`. Safe: the
  hardware takes an exception where the model stops (log 11). -/
  | fpAccessTrap (target : HandlerEL) (pc : BitVec 64) (word : Word)
  deriving DecidableEq, Repr

/-- Why a step has no meaning in this spec. -/
inductive Refusal where
  /-- An instruction without a meaning in the model; raised by a refused arm of `exec` alone, and there is none. Safe. -/
  | notModelled (mnemonic : String)
  /-- The word at `pc` is not PMULL/PMULL2: no rule in this spec (R56). Raised by fetching. Safe (log 13). -/
  | notPmull (pc : BitVec 64) (word : Word)
  /-- `pc` is not a multiple of 4: no PMULL step (R40, D11). Raised by fetching. Safe (log 9). -/
  | misalignedPc (pc : BitVec 64)
  /-- The program text has no word at `pc` (R47). Raised by fetching. Safe (log 7). -/
  | noProgramText (pc : BitVec 64)
  /-- `pc + 4` would exceed 2^64 - 1: no step (R28, D26). Raised by completing an instruction. Safe (log 10). -/
  | pcAtTop (pc : BitVec 64)
  deriving DecidableEq, Repr

/-- The outcome of a step (R18). -/
abbrev Result := Host.Outcome State Fault Refusal

/-- The registers of one handler level at reset (log 4). -/
def ElBank.reset (x : HandlerEL) : ElBank where
  elr := Config.resetBank x 0
  spsr := Config.resetSpsr x
  esr := Config.resetBank x 1
  far := Config.resetBank x 2
  vbar := Config.resetBank x 3

/-- PSTATE at reset: flags free (log 4), the other fields PRESUMED from the family as R36 and R100 tell it (log 5). -/
def Pstate.reset : Pstate where
  n := Config.resetFlag 0
  z := Config.resetFlag 1
  c := Config.resetFlag 2
  v := Config.resetFlag 3
  dit := false
  el := .el3
  spSel := true
  d := true
  a := true
  i := true
  f := true
  nRW := false

/-- The machine after reset. The spec states no reset value at all (R36, R100): every value here is the model's, free
where the spec says UNKNOWN or any value (logs 3, 4), the family's where the spec tells it (log 5), chosen for `pc`
(log 6) and the parameters (log 1). No program is in it (log 7). -/
def State.reset : State where
  v := Vector.ofFn Config.resetV
  pc := 0#64
  pstate := Pstate.reset
  securityState := .secure
  cpacrEl1 := Config.resetSys 0
  cptrEl2 := Config.resetSys 1
  cptrEl3 := Config.resetSys 2
  idAa64isar0El1 := 0x20#64
  x := Vector.ofFn Config.resetX
  sp := Vector.ofFn Config.resetSp
  bank1 := ElBank.reset .el1
  bank2 := ElBank.reset .el2
  bank3 := ElBank.reset .el3
  mem := []
  params := Config.launchParams

end Sys2Proof.Machine
end

