-- ==== Sys2Proof/Machine/Flags.lean ====
section
/-! DEFINITION. Flags and PSTATE. PMULL and PMULL2 compute no flag and write no bit of PSTATE (R29, R30, R73), so the one
computation here is what taking an exception does to PSTATE (R89). -/

namespace Sys2Proof.Machine

/-- The Exception level of a handler. -/
def levelOf : HandlerEL → EL
  | .el1 => .el1
  | .el2 => .el2
  | .el3 => .el3

/-- PSTATE with N, Z, C, V replaced: what a statement that the flags are not read ranges over (R29). -/
def withFlags (p : Pstate) (n z c v : Bool) : Pstate := { p with n := n, z := z, c := c, v := v }

/-- PSTATE after taking an exception to `target`: EL is the target, SP is 1, D, A, I, F are 1, nRW is 0 (R89). -/
def pstateOnEntry (target : HandlerEL) (p : Pstate) : Pstate :=
  { p with el := levelOf target, spSel := true, d := true, a := true, i := true, f := true, nRW := false }

end Sys2Proof.Machine
end

