-- ==== Sys2Proof/Machine/Operands.lean ====
section
/-! DEFINITION. The pseudocode's functions on bitstrings (R9 to R13), the decode arithmetic of R52, and the operand
forms: the accessors of the SIMD&FP registers (R23 to R25). Their bodies are the spec's general knowledge (log 16). -/

namespace Sys2Proof.Machine

/-- `Elem[vector, e, size]`, read form: element 0 is the least significant (R10). -/
def elem {N : Nat} (vector : BitVec N) (e size : Nat) : BitVec size := vector.extractLsb' (e * size) size

/-- `Elem[vector, e, size] = value`, write form: every other bit of `vector` stays (R11). -/
def setElem {N size : Nat} (vector : BitVec N) (e : Nat) (value : BitVec size) : BitVec N :=
  (vector &&& ~~~((BitVec.allOnes size).setWidth N <<< (e * size))) ||| (value.setWidth N <<< (e * size))

/-- The loop of R13 after its iterations `i = 0 .. k-1`. -/
def polynomialMultUpTo {M N : Nat} (op1 : BitVec M) (op2 : BitVec N) : Nat → BitVec (M + N)
  | 0 => 0
  | k + 1 =>
    if op1.getLsbD k then polynomialMultUpTo op1 op2 k ^^^ (op2.setWidth (M + N) <<< k)
    else polynomialMultUpTo op1 op2 k

/-- `PolynomialMult(op1, op2)`: the carry-less product, bit `i` the coefficient of `x^i` (R13). -/
def polynomialMult {M N : Nat} (op1 : BitVec M) (op2 : BitVec N) : BitVec (M + N) := polynomialMultUpTo op1 op2 M

/-- `esize = 8 << UInt(size)` (R52). -/
def esizeOf (size : BitVec 2) : Nat := 8 <<< size.toNat

/-- `elements = datasize DIV esize` (R52). -/
def elementsOf (esize : Nat) : Nat := Config.datasize / esize

/-- `part = UInt(Q)` (R52). -/
def partOf (q : BitVec 1) : Half := if q = 0#1 then .lower else .upper

/-- `V[n, width]`, read form: the low `width` bits (R24). -/
def State.readV (s : State) (n : VReg) (width : Nat) : BitVec width := s.v[n].extractLsb' 0 width

/-- `Vpart[n, part, 64]`: the lower half is bits 63:0, the upper half bits 127:64 (R25). -/
def State.vpart (s : State) (n : VReg) : Half → BitVec 64
  | .lower => s.v[n].extractLsb' 0 64
  | .upper => s.v[n].extractLsb' 64 64

/-- `V[n, width] = value`: the whole register is replaced, the bits above `width` by zeros (R23). -/
def State.writeV {width : Nat} (s : State) (n : VReg) (value : BitVec width) : State :=
  { s with v := s.v.set n.val (value.setWidth 128) n.isLt }

end Sys2Proof.Machine
end

