-- ==== Sys2Proof/Machine/Ops.lean ====
section
/-! DEFINITION. The named operations: memory and fetching, the enable check, raising the two faults, completing an
instruction, the operation the four PMULL rows share, and the architecture's exception entry and return. -/

namespace Sys2Proof.Machine

/-! Memory (R38, R39, R47) -/

/-- The byte at an address, if something has placed one (log 7). -/
def Memory.read : Memory → Nat → Option Byte
  | [], _ => none
  | (a, b) :: rest, addr => if addr = a then some b else Memory.read rest addr

/-- Place a byte, keeping the addresses strictly rising. -/
def Memory.write : Memory → Nat → Byte → Memory
  | [], addr, byte => [(addr, byte)]
  | (a, b) :: rest, addr, byte =>
    if addr < a then (addr, byte) :: (a, b) :: rest
    else if addr = a then (addr, byte) :: rest
    else (a, b) :: Memory.write rest addr byte

/-- Every address listed lies above `bound` and inside the 64-bit space, and the addresses rise strictly. -/
def Memory.risesFrom : Nat → Memory → Bool
  | _, [] => true
  | bound, (a, _) :: rest => decide (bound ≤ a) && decide (a < 2 ^ 64) && Memory.risesFrom (a + 1) rest

/-- The canonical form of memory. An unlisted address has no value, so no entry can equal what it reads as. -/
def Memory.wf (m : Memory) : Bool := Memory.risesFrom 0 m

/-- The address of byte `k` of the word at `pc`. -/
def byteAddr (pc : BitVec 64) (k : Nat) : Nat := (pc + BitVec.ofNat 64 k).toNat

/-- The instruction word at `pc`: four bytes, little-endian (R39), if all are placed. -/
def fetchWord (m : Memory) (pc : BitVec 64) : Option Word :=
  match m.read (byteAddr pc 0), m.read (byteAddr pc 1), m.read (byteAddr pc 2), m.read (byteAddr pc 3) with
  | some b0, some b1, some b2, some b3 => some (wordOfBytes b0 b1 b2 b3)
  | _, _, _, _ => none

/-- Place an instruction word at `pc` (R39): the launch's doing, no instruction stores (R37). -/
def placeWord (m : Memory) (pc : BitVec 64) (w : Word) : Memory :=
  Memory.write
    (Memory.write
      (Memory.write (Memory.write m (byteAddr pc 0) (w.extractLsb' 0 8)) (byteAddr pc 1) (w.extractLsb' 8 8))
      (byteAddr pc 2) (w.extractLsb' 16 8))
    (byteAddr pc 3) (w.extractLsb' 24 8)

/-- Fetch and decode the instruction at `pc`: `pc` must be a multiple of 4 (R40, D11; log 9), the text must have a word
there (log 7), and the word must be of the page's pattern (R56; log 13). -/
def State.fetchInstr (s : State) : Except Refusal Instr :=
  if s.pc.toNat % 4 ≠ 0 then .error (.misalignedPc s.pc)
  else
    match fetchWord s.mem s.pc with
    | none => .error (.noProgramText s.pc)
    | some w =>
      match decode s.params.havePmull64 w with
      | .ok i => .ok i
      | .error _ => .error (.notPmull s.pc w)

/-! Fields of the system registers (R32, R33) and the enable check (R16, R84) -/

/-- The field FPEN, bits 21:20, of CPACR_EL1 and, with E2H, of CPTR_EL2 (R32). -/
def fpenOf (r : BitVec 64) : BitVec 2 := r.extractLsb' 20 2

/-- The field TFP, bit 10, of CPTR_EL2 and CPTR_EL3 (R32). -/
def tfpOf (r : BitVec 64) : Bool := r.getLsbD 10

/-- The field AES, bits 7:4, of ID_AA64ISAR0_EL1 (R33). -/
def aesOf (r : BitVec 64) : BitVec 4 := r.extractLsb' 4 4

/-- What the field AES reads: FEAT_PMULL with FEAT_AES, FEAT_AES alone, neither (R33; log 25). -/
def aesFieldFor (havePmull64 haveAes : Bool) : BitVec 4 :=
  if havePmull64 then 0b0010#4 else if haveAes then 0b0001#4 else 0b0000#4

/-- EL2 is implemented and enabled in a Security state. -/
def el2Enabled (p : Platform) (ss : SecurityState) : Bool := p.el2EnabledIn.contains ss

/-- Step 1 of R84: the test of CPACR_EL1. -/
def cpacrTrap (p : Platform) (c : CheckInputs) : Option HandlerEL :=
  let host0 := c.el == .el0 && el2Enabled p c.securityState && p.hcrE2H && p.hcrTGE
  if (c.el == .el0 || c.el == .el1) && !host0 then
    if fpenOf c.cpacrEl1 = 0b11#2 then none
    else if fpenOf c.cpacrEl1 = 0b01#2 then if c.el = .el0 then some .el1 else none
    else some .el1
  else none

/-- Step 2 of R84: the test of CPTR_EL2. -/
def cptrEl2Trap (p : Platform) (c : CheckInputs) : Option HandlerEL :=
  if c.el != .el3 && el2Enabled p c.securityState then
    if p.hcrE2H then
      if fpenOf c.cptrEl2 = 0b11#2 then none
      else if fpenOf c.cptrEl2 = 0b01#2 then if c.el == .el0 && p.hcrTGE then some .el2 else none
      else some .el2
    else if tfpOf c.cptrEl2 then some .el2 else none
  else none

/-- Step 3 of R84: the test of CPTR_EL3. -/
def cptrEl3Trap (p : Platform) (c : CheckInputs) : Option HandlerEL :=
  if p.el3Implemented && tfpOf c.cptrEl3 then some .el3 else none

/-- The usual algorithm of R84: the tests in their order, a lower level first. Step 4 is excluded (R34). PRESUMED, the
spec's general knowledge (log 28). -/
def usualCheck (p : Platform) (c : CheckInputs) : Verdict :=
  match cpacrTrap p c with
  | some t => .trap t
  | none =>
    match cptrEl2Trap p c with
    | some t => .trap t
    | none =>
      match cptrEl3Trap p c with
      | some t => .trap t
      | none => .enabled

/-- The verdict of a table: that of the first row with these inputs, else the one verdict. -/
def tableCheck (otherwise : Verdict) : List (CheckInputs × Verdict) → CheckInputs → Verdict
  | [], _ => otherwise
  | (k, r) :: rest, c => if c = k then r else tableCheck otherwise rest c

/-- `FPSIMD_CHECK` applied to its five inputs (R6, R16). -/
def fpsimdCheck (p : Params) (c : CheckInputs) : Verdict :=
  match p.fpsimdCheck with
  | .table rows otherwise => tableCheck otherwise rows c
  | .usual => usualCheck p.platform c

/-- The five inputs of `FPSIMD_CHECK` in a state (R16). -/
def State.checkInputs (s : State) : CheckInputs where
  cpacrEl1 := s.cpacrEl1
  cptrEl2 := s.cptrEl2
  cptrEl3 := s.cptrEl3
  securityState := s.securityState
  el := s.pstate.el

/-- `CheckFPAdvSIMDEnabled64()`: it reads the five inputs and writes nothing (R16). -/
def State.checkFPAdvSIMDEnabled64 (s : State) : Verdict := fpsimdCheck s.params s.checkInputs

/-! Faults and completion -/

/-- `raise Undefined()`: the fault with its record; nothing changes (R82, R87). -/
def State.raiseUndefined (s : State) (word : Word) : Result := .fault (.undefined s.pc word)

/-- `raise FPAccessTrap(target)`: the fault with its record; nothing changes (R83, R87). -/
def State.raiseFPAccessTrap (s : State) (target : HandlerEL) (word : Word) : Result :=
  .fault (.fpAccessTrap target s.pc word)

/-- The program counter replaced. -/
def State.setPc (s : State) (pc : BitVec 64) : State := { s with pc := pc }

/-- `pc <- pc + 4`, and no step when that would exceed 2^64 - 1 (R28, D26; log 10). -/
def State.advance (s : State) : Result :=
  if s.pc.toNat + 4 < 2 ^ 64 then .next (s.setPc (s.pc + 4#64)) else .refused (.pcAtTop s.pc)

/-! The operation (R67) -/

/-- The lane loop of R67 after its iterations `e = 0 .. k-1`, from the unassigned `result` (R68; log 17). -/
def productLanes (esize : Nat) (result : BitVec 128) (operand1 operand2 : BitVec 64) : Nat → BitVec 128
  | 0 => result
  | e + 1 =>
    setElem (productLanes esize result operand1 operand2 e) e
      (polynomialMult (elem operand1 e esize) (elem operand2 e esize))

/-- §Operation as R67 transcribes it, for the instruction of word `word`: the enable check first, both operands read
before the one write (R68), then `pc + 4`. -/
def polynomialMultiplyLong (word : Word) (part : Half) (esize elements : Nat) (d n m : VReg) (s : State) : Result :=
  match s.checkFPAdvSIMDEnabled64 with
  | .trap target => s.raiseFPAccessTrap target word
  | .enabled => (s.writeV d (productLanes esize 0#128 (s.vpart n part) (s.vpart m part) elements)).advance

/-- R54 before §Operation: without HAVE_PMULL64 the word is UNDEFINED, whatever the enable check says (R85). -/
def polynomialMultiplyLong64 (word : Word) (part : Half) (d n m : VReg) (s : State) : Result :=
  if s.params.havePmull64 then polynomialMultiplyLong word part 64 1 d n m s else s.raiseUndefined word

/-! Exception entry and return of the architecture (R82, R83, R89, R90): orientation the spec marks general knowledge.
`step` does not take them: a fault ends the run (R89, D16; log 21). They say what the hardware makes of the state a
fault leaves. -/

/-- HCR_EL2.TGE takes effect: exceptions from EL0 go to EL2 (R82, R83; log 22). -/
def State.tgeInEffect (s : State) : Bool := s.params.platform.hcrTGE && el2Enabled s.params.platform s.securityState

/-- The level an Undefined exception is taken to (R82). -/
def State.undefinedTarget (s : State) : HandlerEL :=
  match s.pstate.el with
  | .el0 => if s.tgeInEffect then .el2 else .el1
  | .el1 => .el1
  | .el2 => .el2
  | .el3 => .el3

/-- A CPACR_EL1 trap raised at EL0 while TGE is in effect is taken to EL2 as an Undefined one (R83). -/
def State.trapRerouted (s : State) (target : HandlerEL) : Bool :=
  target == .el1 && s.pstate.el == .el0 && s.tgeInEffect

/-- The level a fault's exception is taken to (R82, R83). -/
def State.entryTarget (s : State) : Fault → HandlerEL
  | .undefined _ _ => s.undefinedTarget
  | .fpAccessTrap target _ _ => if s.trapRerouted target then .el2 else target

/-- `ESR_ELx` of a fault's exception: EC 0b000000 or EC 0b000111 (R82, R83). -/
def State.entrySyndrome (s : State) : Fault → BitVec 64
  | .undefined _ _ => 0x02000000#64
  | .fpAccessTrap target _ _ => if s.trapRerouted target then 0x02000000#64 else 0x1FE00000#64

/-- The address a fault records: that of its instruction, the preferred return address (R87, R89). -/
def faultPc : Fault → BitVec 64
  | .undefined pc _ => pc
  | .fpAccessTrap _ pc _ => pc

/-- The offset of the synchronous vector from VBAR_ELx (R89): the same level, or from a lower one. R89 gives none where
the target lies below the current level, which an open FPSIMD_CHECK can answer: there the offsets of a lower level are
used, a DESIGN CHOICE (log 29). -/
def vectorOffset (p : Pstate) (target : HandlerEL) : BitVec 64 :=
  if p.el = levelOf target then if p.spSel then 0x200#64 else 0x000#64
  else if p.nRW then 0x600#64 else 0x400#64

/-- The registers banked for a level (R92). -/
def State.bank (s : State) : HandlerEL → ElBank
  | .el1 => s.bank1
  | .el2 => s.bank2
  | .el3 => s.bank3

/-- The registers banked for a level, replaced. -/
def State.setBank (s : State) (x : HandlerEL) (b : ElBank) : State :=
  match x with
  | .el1 => { s with bank1 := b }
  | .el2 => { s with bank2 := b }
  | .el3 => { s with bank3 := b }

/-- PSTATE replaced. -/
def State.setPstate (s : State) (p : Pstate) : State := { s with pstate := p }

/-- Taking the exception of a fault raised in `s` (R89): ELR_ELx gets the pc, SPSR_ELx PSTATE, ESR_ELx the syndrome,
PSTATE is that of the entry, the pc goes to VBAR_ELx plus the offset; general and SIMD&FP registers are not saved. That
entry to a level below the current one is the same is a DESIGN CHOICE (log 29). -/
def State.takeException (s : State) (f : Fault) : State :=
  let x := s.entryTarget f
  let b := s.bank x
  let saved : ElBank :=
    { b with
      elr := faultPc f
      spsr := s.pstate
      esr := s.entrySyndrome f
      far := Config.farAfterEntry b.far (faultPc f) }
  ((s.setBank x saved).setPstate (pstateOnEntry x s.pstate)).setPc (b.vbar + vectorOffset s.pstate x)

/-- Returning from the handler of level `x`: PSTATE from SPSR_ELx and pc from ELR_ELx (R90). R90 does not say whether the
Security state changes: that it stays is a DESIGN CHOICE (log 22). -/
def State.exceptionReturn (s : State) (x : HandlerEL) : State :=
  (s.setPstate (s.bank x).spsr).setPc (s.bank x).elr

end Sys2Proof.Machine
end

