-- ==== Sys2Proof/Machine/Pmull.lean ====
section
/-! DEFINITION. The family Polynomial Multiply Long: the meanings of rows 1 to 4 of R55 (R69 to R72). -/

namespace Sys2Proof.Machine

/-- `PMULL Vd.8H, Vn.8B, Vm.8B` (R69): eight 8-bit elements of the lower halves. -/
def execPmullB8 (d n m : VReg) (s : State) : Result :=
  polynomialMultiplyLong (encode (.pmullB8 d n m)) .lower 8 8 d n m s

/-- `PMULL2 Vd.8H, Vn.16B, Vm.16B` (R70): eight 8-bit elements of the upper halves. -/
def execPmull2B16 (d n m : VReg) (s : State) : Result :=
  polynomialMultiplyLong (encode (.pmull2B16 d n m)) .upper 8 8 d n m s

/-- `PMULL Vd.1Q, Vn.1D, Vm.1D` (R71): the lower halves as one 64-bit element; UNDEFINED without HAVE_PMULL64. -/
def execPmullD1 (d n m : VReg) (s : State) : Result :=
  polynomialMultiplyLong64 (encode (.pmullD1 d n m)) .lower d n m s

/-- `PMULL2 Vd.1Q, Vn.2D, Vm.2D` (R72): the upper halves as one 64-bit element; UNDEFINED without HAVE_PMULL64. -/
def execPmull2D2 (d n m : VReg) (s : State) : Result :=
  polynomialMultiplyLong64 (encode (.pmull2D2 d n m)) .upper d n m s

end Sys2Proof.Machine
end

