-- ==== Sys2Proof/Machine/Undefined.lean ====
section
/-! DEFINITION. The family of reserved encodings: the meanings of rows 5 to 7 of R55. Each is `Fault(Undefined)`,
whatever the enable check says (R85): a stop the spec gives (R53, R54, R82). -/

namespace Sys2Proof.Machine

/-- `size = 01` (R53). -/
def execUndefinedSize01 (q : BitVec 1) (d n m : VReg) (s : State) : Result :=
  s.raiseUndefined (encode (.undefinedSize01 q d n m))

/-- `size = 10` (R53). -/
def execUndefinedSize10 (q : BitVec 1) (d n m : VReg) (s : State) : Result :=
  s.raiseUndefined (encode (.undefinedSize10 q d n m))

/-- `size = 11` where HAVE_PMULL64 is false (R54); with HAVE_PMULL64 the decoder never gives this row (log 15). -/
def execUndefinedSize11 (q : BitVec 1) (d n m : VReg) (s : State) : Result :=
  s.raiseUndefined (encode (.undefinedSize11 q d n m))

end Sys2Proof.Machine
end

