-- ==== Sys2Proof/Machine/Dispatch.lean ====
section
/-! DEFINITION. One arm per constructor of Instr. -/

namespace Sys2Proof.Machine

def exec (i : Instr) (s : State) : Host.Outcome State Fault Refusal :=
  match i with
  | .pmullB8 d n m => Sys2Proof.Machine.execPmullB8 d n m s
  | .pmull2B16 d n m => Sys2Proof.Machine.execPmull2B16 d n m s
  | .pmullD1 d n m => Sys2Proof.Machine.execPmullD1 d n m s
  | .pmull2D2 d n m => Sys2Proof.Machine.execPmull2D2 d n m s
  | .undefinedSize01 q d n m => Sys2Proof.Machine.execUndefinedSize01 q d n m s
  | .undefinedSize10 q d n m => Sys2Proof.Machine.execUndefinedSize10 q d n m s
  | .undefinedSize11 q d n m => Sys2Proof.Machine.execUndefinedSize11 q d n m s

end Sys2Proof.Machine
end

