-- ==== Sys2Proof/Machine/Step.lean ====
section
/-! DEFINITION. One step: fetch the instruction at `pc` and execute it (R18, R20). -/

namespace Sys2Proof.Machine

/-- One step of the processing element. -/
def step (s : State) : Host.Outcome State Fault Refusal :=
  match s.fetchInstr with
  | .ok i => exec i s
  | .error r => .refused r

/-- The state with an instruction placed where `step` fetches (R39, R47). It stands for the launch, which loads the
program (log 7). -/
def State.withFetchWord (s : State) (nbits w : Nat) : State :=
  { s with mem := placeWord s.mem s.pc (tableWord nbits w) }

end Sys2Proof.Machine
end

