-- ==== Sys2Proof/Machine/Assembler.lean ====
section
/-! DEFINITION. The assembler syntax (R59 to R65): spellings, the three symbol tables, assembling and disassembling, and
the text of a spelling. -/

namespace Sys2Proof.Machine

/-- The arrangement specifiers of the symbol tables (R62, R63). -/
inductive Arrangement where
  | b8
  | b16
  | d1
  | d2
  | h8
  | q1
  deriving DecidableEq, Repr

/-- The operands of the template `PMULL{2} <Vd>.<Ta>, <Vn>.<Tb>, <Vm>.<Tb>` as written (R59): nothing makes them
consistent yet, and a register name may have any number. -/
structure Spelling where
  /-- The optional `2` of the mnemonic. -/
  two : Bool
  vd : Nat
  ta : Arrangement
  vn : Nat
  tbn : Arrangement
  vm : Nat
  tbm : Arrangement
  deriving DecidableEq, Repr

/-- Symbol `2`, encoded in Q (R60). -/
def qOfTwo (two : Bool) : BitVec 1 := if two then 1#1 else 0#1

/-- Symbol `<Ta>`, encoded in size (R62); none is RESERVED, `1Q` too without the option. -/
def taOfSize (havePmull64 : Bool) (size : BitVec 2) : Option Arrangement :=
  if size = 0b00#2 then some .h8
  else if size = 0b11#2 then if havePmull64 then some .q1 else none
  else none

/-- Symbol `<Tb>`, encoded in size:Q (R63); none is RESERVED. -/
def tbOfSizeQ (size : BitVec 2) (q : BitVec 1) : Option Arrangement :=
  if size = 0b00#2 then some (if q = 0#1 then .b8 else .b16)
  else if size = 0b11#2 then some (if q = 0#1 then .d1 else .d2)
  else none

/-- The size a `<Ta>` is encoded as (R62, read backwards). -/
def sizeOfTa (havePmull64 : Bool) : Arrangement → Option (BitVec 2)
  | .h8 => some 0b00#2
  | .q1 => if havePmull64 then some 0b11#2 else none
  | .b8 | .b16 | .d1 | .d2 => none

/-- The register number of a name `V<i>`, 0 to 31 (R61). -/
def regOfName (i : Nat) : Option VReg := if h : i < 32 then some ⟨i, h⟩ else none

/-- To assemble (R64): Q from the mnemonic, size from `<Ta>`, both `<Tb>` as R63 has them for that size:Q, the three
numbers in their fields. An inconsistent spelling is no instruction (D24, U10). -/
def assemble (havePmull64 : Bool) (t : Spelling) : Option Word :=
  match sizeOfTa havePmull64 t.ta, regOfName t.vd, regOfName t.vn, regOfName t.vm with
  | some size, some d, some n, some m =>
    if tbOfSizeQ size (qOfTwo t.two) = some t.tbn ∧ t.tbm = t.tbn then
      some (encodeFields (qOfTwo t.two) size d n m)
    else none
  | _, _, _, _ => none

/-- To disassemble a word of rows 1 to 4 (R64); every other word has no spelling (R62, R63, R65). -/
def disassemble (havePmull64 : Bool) (w : Word) : Option Spelling :=
  match decode havePmull64 w with
  | .ok (.pmullB8 d n m) => some ⟨false, d.val, .h8, n.val, .b8, m.val, .b8⟩
  | .ok (.pmull2B16 d n m) => some ⟨true, d.val, .h8, n.val, .b16, m.val, .b16⟩
  | .ok (.pmullD1 d n m) => some ⟨false, d.val, .q1, n.val, .d1, m.val, .d1⟩
  | .ok (.pmull2D2 d n m) => some ⟨true, d.val, .q1, n.val, .d2, m.val, .d2⟩
  | .ok (.undefinedSize01 _ _ _ _) => none
  | .ok (.undefinedSize10 _ _ _ _) => none
  | .ok (.undefinedSize11 _ _ _ _) => none
  | .error _ => none

/-! Text (R59, R61, R64, D25): upper case is printed, either case is read; white space, and that there are no
comments, are the model's (log 26). -/

/-- The text of an arrangement (R62, R63). -/
def arrangementText : Arrangement → List Char
  | .b8 => ['8', 'B']
  | .b16 => ['1', '6', 'B']
  | .d1 => ['1', 'D']
  | .d2 => ['2', 'D']
  | .h8 => ['8', 'H']
  | .q1 => ['1', 'Q']

/-- The decimal digit of a number below 10. -/
def digitChar (n : Nat) : Char := Char.ofNat (48 + n)

/-- A register number, at most two decimal digits (R61). -/
def decimalText (n : Nat) : List Char := if n < 10 then [digitChar n] else [digitChar (n / 10), digitChar (n % 10)]

/-- `V<i>.<T>` (R59, R61). -/
def operandText (i : Nat) (t : Arrangement) : List Char := 'V' :: decimalText i ++ '.' :: arrangementText t

/-- The text of a spelling: the template with its symbols filled in (R59, R64). -/
def spellingText (t : Spelling) : List Char :=
  ['P', 'M', 'U', 'L', 'L'] ++ (if t.two then ['2'] else []) ++ ' ' :: operandText t.vd t.ta
    ++ ',' :: ' ' :: operandText t.vn t.tbn ++ ',' :: ' ' :: operandText t.vm t.tbm

/-- Read a fixed text, in either case (D25). -/
def readText : List Char → List Char → Option (List Char)
  | [], cs => some cs
  | _ :: _, [] => none
  | t :: ts, c :: cs => if c.toUpper = t then readText ts cs else none

/-- Skip blanks. -/
def skipBlanks : List Char → List Char
  | [] => []
  | c :: cs => if c = ' ' then skipBlanks cs else c :: cs

/-- Read one or two decimal digits, without a leading zero (log 26). -/
def readDecimal : List Char → Option (Nat × List Char)
  | [] => none
  | c :: cs =>
    if c.isDigit then
      match cs with
      | [] => some (c.toNat - 48, [])
      | c2 :: rest =>
        if c2.isDigit then
          if c = '0' then none else some (10 * (c.toNat - 48) + (c2.toNat - 48), rest)
        else some (c.toNat - 48, c2 :: rest)
    else none

/-- Read one of the arrangements of a list. -/
def readOneOf : List Arrangement → List Char → Option (Arrangement × List Char)
  | [], _ => none
  | t :: ts, cs =>
    match readText (arrangementText t) cs with
    | some rest => some (t, rest)
    | none => readOneOf ts cs

/-- Read `V<i>.<T>`. -/
def readOperand (cs : List Char) : Option ((Nat × Arrangement) × List Char) :=
  match readText ['V'] cs with
  | none => none
  | some r1 =>
    match readDecimal r1 with
    | none => none
    | some (i, r2) =>
      match readText ['.'] r2 with
      | none => none
      | some r3 =>
        match readOneOf [.b8, .b16, .d1, .d2, .h8, .q1] r3 with
        | none => none
        | some (t, r4) => some ((i, t), r4)

/-- Read a comma with blanks around it. -/
def readComma (cs : List Char) : Option (List Char) :=
  match readText [','] (skipBlanks cs) with
  | none => none
  | some rest => some (skipBlanks rest)

/-- Read the mnemonic and the blanks after it: at least one blank. -/
def readMnemonic (cs : List Char) : Option (Bool × List Char) :=
  match readText ['P', 'M', 'U', 'L', 'L'] cs with
  | some (' ' :: rest) => some (false, skipBlanks rest)
  | some ('2' :: ' ' :: rest) => some (true, skipBlanks rest)
  | _ => none

/-- Read a line of assembler text as a spelling (R59). After the third operand only blanks may follow: there is no
comment syntax, a DESIGN CHOICE where the spec is silent (N26; log 26). -/
def readSpelling (cs : List Char) : Option Spelling :=
  match readMnemonic (skipBlanks cs) with
  | none => none
  | some (two, r1) =>
    match readOperand r1 with
    | none => none
    | some ((vd, ta), r2) =>
      match readComma r2 with
      | none => none
      | some r3 =>
        match readOperand r3 with
        | none => none
        | some ((vn, tbn), r4) =>
          match readComma r4 with
          | none => none
          | some r5 =>
            match readOperand r5 with
            | none => none
            | some ((vm, tbm), r6) => if skipBlanks r6 = [] then some ⟨two, vd, ta, vn, tbn, vm, tbm⟩ else none

/-- Assemble a line of text. -/
def assembleText (havePmull64 : Bool) (cs : List Char) : Option Word :=
  match readSpelling cs with
  | none => none
  | some t => assemble havePmull64 t

end Sys2Proof.Machine
end

