-- ==== Sys2Proof/Machine/Reference.lean ====
section
/-! DEFINITION. R67 as one function of the word, decode arithmetic (R52) and lane loop in the page's own shape: what the
meanings of the rows are compared with. `step` does not call it. -/

namespace Sys2Proof.Machine

/-- `for e = 0 to elements-1` of R67, over an unassigned `result` (R68; log 17). -/
def referenceLoop (esize elements : Nat) (operand1 operand2 : BitVec 64) : BitVec 128 :=
  (List.range elements).foldl
    (fun result e => setElem result e (polynomialMult (elem operand1 e esize) (elem operand2 e esize))) 0#128

/-- `step(w, s)` of R67, for a word of the pattern (R50). -/
def referenceStep (w : Word) (s : State) : Result :=
  let f := fieldsOf w
  let esize := esizeOf f.size
  if f.size = 0b01#2 ∨ f.size = 0b10#2 then .fault (.undefined s.pc w)
  else if f.size = 0b11#2 ∧ s.params.havePmull64 = false then .fault (.undefined s.pc w)
  else
    match fpsimdCheck s.params s.checkInputs with
    | .trap target => .fault (.fpAccessTrap target s.pc w)
    | .enabled =>
      let operand1 := s.vpart (regOf f.rn) (partOf f.q)
      let operand2 := s.vpart (regOf f.rm) (partOf f.q)
      let result := referenceLoop esize (elementsOf esize) operand1 operand2
      (s.writeV (regOf f.rd) result).advance

end Sys2Proof.Machine
end

