-- ==== Sys2Proof/Safety.lean ====
section
/-! DEFINITION. The terms the statements use: what completes, which fields an instruction may change, the invariant of
the machine, and replacing state an instruction does not see. -/

namespace Sys2Proof.Machine

/-- The outcome with its next state changed: what replacing unseen state does to an outcome. -/
def mapNext (g : State → State) : Result → Result
  | .next s => .next (g s)
  | .fault r => .fault r
  | .refused r => .refused r

/-- Everything but the SIMD&FP registers and the program counter is the same (R35). -/
def SameOutsideVAndPc (s t : State) : Prop :=
  t.pstate = s.pstate ∧ t.securityState = s.securityState ∧ t.cpacrEl1 = s.cpacrEl1 ∧ t.cptrEl2 = s.cptrEl2 ∧
    t.cptrEl3 = s.cptrEl3 ∧ t.idAa64isar0El1 = s.idAa64isar0El1 ∧ t.x = s.x ∧ t.sp = s.sp ∧ t.bank1 = s.bank1 ∧
    t.bank2 = s.bank2 ∧ t.bank3 = s.bank3 ∧ t.mem = s.mem ∧ t.params = s.params

/-- The destination register of an instruction of rows 1 to 4; the UNDEFINED rows have none. -/
def destOf : Instr → Option VReg
  | .pmullB8 d _ _ => some d
  | .pmull2B16 d _ _ => some d
  | .pmullD1 d _ _ => some d
  | .pmull2D2 d _ _ => some d
  | .undefinedSize01 _ _ _ _ => none
  | .undefinedSize10 _ _ _ _ => none
  | .undefinedSize11 _ _ _ _ => none

/-- The half a row reads (R52, R69 to R72). -/
def halfOf : Instr → Half
  | .pmullB8 _ _ _ => .lower
  | .pmull2B16 _ _ _ => .upper
  | .pmullD1 _ _ _ => .lower
  | .pmull2D2 _ _ _ => .upper
  | .undefinedSize01 q _ _ _ => partOf q
  | .undefinedSize10 q _ _ _ => partOf q
  | .undefinedSize11 q _ _ _ => partOf q

/-- The two source registers named by an instruction, `n` and `m`. -/
def sourcesOf : Instr → VReg × VReg
  | .pmullB8 _ n m => (n, m)
  | .pmull2B16 _ n m => (n, m)
  | .pmullD1 _ n m => (n, m)
  | .pmull2D2 _ n m => (n, m)
  | .undefinedSize01 _ _ n m => (n, m)
  | .undefinedSize10 _ _ n m => (n, m)
  | .undefinedSize11 _ _ n m => (n, m)

/-- Decode ends in UNDEFINED for this instruction in this implementation (R53, R54). -/
def undefinedIn (havePmull64 : Bool) : Instr → Bool
  | .pmullB8 _ _ _ => false
  | .pmull2B16 _ _ _ => false
  | .pmullD1 _ _ _ => !havePmull64
  | .pmull2D2 _ _ _ => !havePmull64
  | .undefinedSize01 _ _ _ _ => true
  | .undefinedSize10 _ _ _ _ => true
  | .undefinedSize11 _ _ _ _ => true

/-- `pc + 4` stays inside the address space (R28, D26). -/
def State.pcCanAdvance (s : State) : Prop := s.pc.toNat + 4 < 2 ^ 64

/-- The field AES of ID_AA64ISAR0_EL1 reads as R33 says for the features implemented, and FEAT_PMULL is not implemented
without FEAT_AES (R33, C1; log 25). -/
def State.idDisclosesFeatures (s : State) : Prop :=
  aesOf s.idAa64isar0El1 = aesFieldFor s.params.havePmull64 s.params.haveAes ∧
    (s.params.havePmull64 = true → s.params.haveAes = true)

/-- The invariant of the machine: memory in its canonical form, `pc` a multiple of 4 (R40), and the identification
register in accord with the features implemented (R33). -/
def State.Inv (s : State) : Prop :=
  Memory.wf s.mem = true ∧ s.pc.toNat % 4 = 0 ∧ s.idDisclosesFeatures

end Sys2Proof.Machine
end

