-- ==== Sys2Proof/Certificates/Slice0/Obligations.lean ====
section
/-! DEFINITION. The statements for the provers, from the spec's numbered rules. Those that rest on the spec's general
knowledge or on a choice of the model say so with the log entry. -/

open Sys2Proof Sys2Proof.Machine

/-! Encoding and decoding (30_encoding.md) -/

/-- R55, R64: decoding the word of a well-formed instruction gives it back, every operand at every value. -/
def Obligations.DecodeOfEncode : Prop :=
  ∀ (havePmull64 : Bool) (i : Instr), i.wellFormed havePmull64 = true → decode havePmull64 (encode i) = .ok i

/-- R55, R64: every word that decodes has one meaning, is the word of it, and is in the implementation. -/
def Obligations.EncodeOfDecode : Prop :=
  ∀ (havePmull64 : Bool) (w : Word) (i : Instr),
    decode havePmull64 w = .ok i → encode i = w ∧ i.wellFormed havePmull64 = true

/-- R55: the seven rows, each by its mask, its match and its column `needs`; and every word of R50's pattern is in one. -/
def Obligations.RowsByMaskAndMatch : Prop :=
  ∀ (havePmull64 : Bool) (w : Word),
    ((∃ d n m, decode havePmull64 w = .ok (.pmullB8 d n m)) ↔ w &&& 0xFFE0FC00#32 = 0x0E20E000#32) ∧
    ((∃ d n m, decode havePmull64 w = .ok (.pmull2B16 d n m)) ↔ w &&& 0xFFE0FC00#32 = 0x4E20E000#32) ∧
    ((∃ d n m, decode havePmull64 w = .ok (.pmullD1 d n m)) ↔
      w &&& 0xFFE0FC00#32 = 0x0EE0E000#32 ∧ havePmull64 = true) ∧
    ((∃ d n m, decode havePmull64 w = .ok (.pmull2D2 d n m)) ↔
      w &&& 0xFFE0FC00#32 = 0x4EE0E000#32 ∧ havePmull64 = true) ∧
    ((∃ q d n m, decode havePmull64 w = .ok (.undefinedSize01 q d n m)) ↔ w &&& 0xBFE0FC00#32 = 0x0E60E000#32) ∧
    ((∃ q d n m, decode havePmull64 w = .ok (.undefinedSize10 q d n m)) ↔ w &&& 0xBFE0FC00#32 = 0x0EA0E000#32) ∧
    ((∃ q d n m, decode havePmull64 w = .ok (.undefinedSize11 q d n m)) ↔
      w &&& 0xBFE0FC00#32 = 0x0EE0E000#32 ∧ havePmull64 = false) ∧
    ((∃ i, decode havePmull64 w = .ok i) ↔ w &&& 0xBF20FC00#32 = 0x0E20E000#32)

/-- R51: the five fields of a word, as numbers: Q is bit 30, size bits 23:22, Rm 20:16, Rn 9:5, Rd 4:0. -/
def Obligations.FieldExtraction : Prop :=
  ∀ w : Word,
    (fieldsOf w).q.toNat = w.toNat / 2 ^ 30 % 2 ∧ (fieldsOf w).size.toNat = w.toNat / 2 ^ 22 % 4 ∧
      (fieldsOf w).rm.toNat = w.toNat / 2 ^ 16 % 32 ∧ (fieldsOf w).rn.toNat = w.toNat / 2 ^ 5 % 32 ∧
      (fieldsOf w).rd.toNat = w.toNat % 32

/-- R52: decode statement by statement: which words are UNDEFINED, the register numbers as `UInt` of their fields, and
esize, elements, datasize, part. -/
def Obligations.DecodeStatements : Prop :=
  (∀ (havePmull64 : Bool) (w : Word) (i : Instr), decode havePmull64 w = .ok i →
    (undefinedIn havePmull64 i = true ↔
      w.extractLsb' 22 2 = 0b01#2 ∨ w.extractLsb' 22 2 = 0b10#2 ∨
        (w.extractLsb' 22 2 = 0b11#2 ∧ havePmull64 = false)) ∧
    (sourcesOf i).1.val = (w.extractLsb' 5 5).toNat ∧ (sourcesOf i).2.val = (w.extractLsb' 16 5).toNat ∧
    (∀ d, destOf i = some d → d.val = (w.extractLsb' 0 5).toNat) ∧
    (halfOf i = .lower ↔ w.extractLsb' 30 1 = 0#1)) ∧
  (∀ size, esizeOf size = 8 * 2 ^ size.toNat) ∧ (∀ esize, elementsOf esize = 64 / esize) ∧ Config.datasize = 64 ∧
  esizeOf 0b00#2 = 8 ∧ elementsOf 8 = 8 ∧ esizeOf 0b11#2 = 64 ∧ elementsOf 64 = 1 ∧
  partOf 0#1 = .lower ∧ partOf 1#1 = .upper

/-- 95 section 2, R55: words written out from the encoding stand for these instructions. A sanity statement. -/
def Obligations.ManualWordsDecode : Prop :=
  decode true 0x0E22E020#32 = .ok (.pmullB8 0 1 2) ∧ decode true 0x4E27E0C5#32 = .ok (.pmull2B16 5 6 7) ∧
    decode true 0x0EF1E134#32 = .ok (.pmullD1 20 9 17) ∧ decode true 0x4EFFE3FF#32 = .ok (.pmull2D2 31 31 31) ∧
    decode true 0x0E62E020#32 = .ok (.undefinedSize01 0#1 0 1 2) ∧
    decode true 0x4EA2E020#32 = .ok (.undefinedSize10 1#1 0 1 2) ∧
    decode false 0x4EE2E020#32 = .ok (.undefinedSize11 1#1 0 1 2)

/-! Assembler syntax (30_encoding.md section 4) -/

/-- R60, R62, R63: the three symbol tables, entry by entry; a RESERVED entry is none. The symbol 2 selects the half of
the sources that is read, bits 63:0 without it (R25, the spec's general knowledge; log 16), and the destination is
written whole (R26). Assembling reads the table of `<Ta>` backwards, and that is the same table. -/
def Obligations.SymbolTables : Prop :=
  (qOfTwo false = 0#1 ∧ qOfTwo true = 1#1) ∧
    (∀ (s : State) (n d : VReg) (r : BitVec 128),
      s.vpart n (partOf (qOfTwo false)) = s.v[n].extractLsb' 0 64 ∧
        s.vpart n (partOf (qOfTwo true)) = s.v[n].extractLsb' 64 64 ∧ (s.writeV d r).v[d] = r) ∧
    (∀ havePmull64, taOfSize havePmull64 0b00#2 = some .h8 ∧ taOfSize havePmull64 0b01#2 = none ∧
      taOfSize havePmull64 0b10#2 = none ∧
      taOfSize havePmull64 0b11#2 = if havePmull64 then some .q1 else none) ∧
    (∀ havePmull64 ta size, sizeOfTa havePmull64 ta = some size ↔ taOfSize havePmull64 size = some ta) ∧
    (tbOfSizeQ 0b00#2 0#1 = some .b8 ∧ tbOfSizeQ 0b00#2 1#1 = some .b16 ∧ (∀ q, tbOfSizeQ 0b01#2 q = none) ∧
      (∀ q, tbOfSizeQ 0b10#2 q = none) ∧ tbOfSizeQ 0b11#2 0#1 = some .d1 ∧ tbOfSizeQ 0b11#2 1#1 = some .d2)

/-- R64: a word's spelling assembles to the word, and a spelling that assembles is the one its word is printed as. -/
def Obligations.AssembleDisassemble : Prop :=
  ∀ (havePmull64 : Bool) (w : Word) (t : Spelling),
    disassemble havePmull64 w = some t ↔ assemble havePmull64 t = some w

/-- R64: the four consistent spellings, and no other, assemble; a register name has a number 0 to 31 (R61). -/
def Obligations.ConsistentSpellings : Prop :=
  ∀ (havePmull64 : Bool) (t : Spelling),
    (∃ w, assemble havePmull64 t = some w) ↔
      (t.vd < 32 ∧ t.vn < 32 ∧ t.vm < 32) ∧
        ((t.two = false ∧ t.ta = .h8 ∧ t.tbn = .b8 ∧ t.tbm = .b8) ∨
          (t.two = true ∧ t.ta = .h8 ∧ t.tbn = .b16 ∧ t.tbm = .b16) ∨
          (t.two = false ∧ t.ta = .q1 ∧ t.tbn = .d1 ∧ t.tbm = .d1 ∧ havePmull64 = true) ∨
          (t.two = true ∧ t.ta = .q1 ∧ t.tbn = .d2 ∧ t.tbm = .d2 ∧ havePmull64 = true))

/-- R59, R61, R64: the printed text of a spelling reads back as it. White space is the model's choice (log 26). -/
def Obligations.PrintedTextReadsBack : Prop :=
  ∀ t : Spelling, t.vd < 32 → t.vn < 32 → t.vm < 32 → readSpelling (spellingText t) = some t

/-! The product (00_scope.md R10 to R13, 40_pmull.md R75) -/

/-- R11: the bits of the element are the value's, every other bit is the vector's. -/
def Obligations.ElemWriteReplacesOneElement : Prop :=
  ∀ (N size : Nat) (vector : BitVec N) (e : Nat) (value : BitVec size), (e + 1) * size ≤ N →
    ∀ j, j < N →
      (setElem vector e value).getLsbD j =
        if e * size ≤ j ∧ j < (e + 1) * size then value.getLsbD (j - e * size) else vector.getLsbD j

/-- R13: the loop of `PolynomialMult`, the sum formula for each bit, and the top bit of a square product. -/
def Obligations.PolynomialMultIsTheCarrylessSum : Prop :=
  ∀ (M N : Nat) (op1 : BitVec M) (op2 : BitVec N),
    polynomialMult op1 op2 =
        (List.range M).foldl
          (fun result i => if op1.getLsbD i then result ^^^ (op2.setWidth (M + N) <<< i) else result) 0#(M + N) ∧
      (∀ k, k < M + N →
        (polynomialMult op1 op2).getLsbD k =
          decide (((Finset.range M ×ˢ Finset.range N).filter
            (fun p => p.1 + p.2 = k ∧ op1.getLsbD p.1 = true ∧ op2.getLsbD p.2 = true)).card % 2 = 1)) ∧
      (M = N → 0 < M → (polynomialMult op1 op2).getLsbD (M + N - 1) = false)

/-- The polynomial over {0, 1} a bitstring stands for: bit `i` is the coefficient of `x^i` (R13). -/
noncomputable def polyOf {n : Nat} (a : BitVec n) : Polynomial (ZMod 2) :=
  ∑ i ∈ Finset.range n, if a.getLsbD i then Polynomial.X ^ i else 0

/-- R13: `PolynomialMult` is the product of polynomials over {0, 1}. -/
def Obligations.PolynomialMultIsThePolynomialProduct : Prop :=
  ∀ (M N : Nat) (op1 : BitVec M) (op2 : BitVec N), polyOf (polynomialMult op1 op2) = polyOf op1 * polyOf op2

/-- R75 laws 3, 4, 5: zero, one, and the order of the operands. -/
def Obligations.ProductZeroOneCommutes : Prop :=
  ∀ (E : Nat) (a b : BitVec E),
    polynomialMult a 0#E = 0#(E + E) ∧ polynomialMult 0#E b = 0#(E + E) ∧
      polynomialMult a 1#E = a.setWidth (E + E) ∧ polynomialMult 1#E a = a.setWidth (E + E) ∧
      polynomialMult a b = polynomialMult b a

/-- R75 law 6: multiplying by `x^k` shifts, and no bit is lost. -/
def Obligations.ProductWithPowerOfX : Prop :=
  ∀ (E : Nat) (a : BitVec E) (k : Nat), k < E →
    polynomialMult a (1#E <<< k) = a.setWidth (E + E) <<< k ∧
      ∀ j, j < E → (polynomialMult a (1#E <<< k)).getLsbD (j + k) = a.getLsbD j

/-- R75 law 7: the product distributes over exclusive or on either side. -/
def Obligations.ProductDistributesOverXor : Prop :=
  ∀ (E : Nat) (a b c : BitVec E),
    polynomialMult (a ^^^ b) c = polynomialMult a c ^^^ polynomialMult b c ∧
      polynomialMult a (b ^^^ c) = polynomialMult a b ^^^ polynomialMult a c

/-- R75 law 8: a square interleaves the bits with zeros. -/
def Obligations.SquareInterleavesZeros : Prop :=
  ∀ (E : Nat) (a : BitVec E) (i : Nat), i < E →
    (polynomialMult a a).getLsbD (2 * i) = a.getLsbD i ∧ (polynomialMult a a).getLsbD (2 * i + 1) = false

/-- R75 law 9: no zero divisors, and the highest set bits add. -/
def Obligations.ProductHasNoZeroDivisors : Prop :=
  ∀ (E : Nat) (a b : BitVec E), a ≠ 0#E → b ≠ 0#E →
    polynomialMult a b ≠ 0#(E + E) ∧ (polynomialMult a b).toNat.log2 = a.toNat.log2 + b.toNat.log2

/-- R75 law 10: the integer product exactly when no two partial products have a 1 in one column. -/
def Obligations.IntegerProductOnlyWithoutCarries : Prop :=
  ∀ (E : Nat) (a b : BitVec E),
    (polynomialMult a b).toNat = a.toNat * b.toNat ↔
      ∀ i j, i < j → j < E → a.getLsbD i = true → a.getLsbD j = true →
        (b.setWidth (E + E) <<< i) &&& (b.setWidth (E + E) <<< j) = 0#(E + E)

/-! The accessors of the registers (10_state.md section 2) -/

/-- R10, R24, R25: bit by bit, what reading an element, the low bits of a register, and each half of one gives. -/
def Obligations.AccessorsReadTheseBits : Prop :=
  (∀ (N : Nat) (vector : BitVec N) (e size j : Nat), (e + 1) * size ≤ N → j < size →
    (elem vector e size).getLsbD j = vector.getLsbD (e * size + j)) ∧
  (∀ (s : State) (n : VReg) (width j : Nat), width ≤ 128 → j < width →
    (s.readV n width).getLsbD j = s.v[n].getLsbD j) ∧
  (∀ (s : State) (n : VReg) (j : Nat), j < 64 →
    (s.vpart n .lower).getLsbD j = s.v[n].getLsbD j ∧ (s.vpart n .upper).getLsbD j = s.v[n].getLsbD (64 + j))

/-- R23: a write replaces all 128 bits of one register, the bits above a narrower width by zeros, and no other. -/
def Obligations.VectorWriteReplacesOneRegister : Prop :=
  ∀ (s : State) (n k : VReg) (width : Nat) (value : BitVec width), width ≤ 128 →
    (∀ j, j < 128 → (s.writeV n value).v[n].getLsbD j = if j < width then value.getLsbD j else false) ∧
      (k ≠ n → (s.writeV n value).v[k] = s.v[k]) ∧ SameOutsideVAndPc s (s.writeV n value) ∧
      (s.writeV n value).pc = s.pc

/-! The four instructions (40_pmull.md section 2): where they complete and what they write -/

/-- R69: where access is enabled and the pc can advance, PMULL 8H completes; halfword `e` of the destination is the
product of byte `e` of the two lower halves. -/
def Obligations.PmullB8Completes : Prop :=
  ∀ (d n m : VReg) (s : State), s.checkFPAdvSIMDEnabled64 = .enabled → s.pc.toNat + 4 < 2 ^ 64 →
    ∃ r : BitVec 128, exec (.pmullB8 d n m) s = .next ((s.writeV d r).setPc (s.pc + 4#64)) ∧
      ∀ e, e < 8 → r.extractLsb' (16 * e) 16 =
        polynomialMult (s.v[n].extractLsb' (8 * e) 8) (s.v[m].extractLsb' (8 * e) 8)

/-- R70: PMULL2 8H completes; halfword `e` is the product of byte `8 + e` of the two sources. -/
def Obligations.Pmull2B16Completes : Prop :=
  ∀ (d n m : VReg) (s : State), s.checkFPAdvSIMDEnabled64 = .enabled → s.pc.toNat + 4 < 2 ^ 64 →
    ∃ r : BitVec 128, exec (.pmull2B16 d n m) s = .next ((s.writeV d r).setPc (s.pc + 4#64)) ∧
      ∀ e, e < 8 → r.extractLsb' (16 * e) 16 =
        polynomialMult (s.v[n].extractLsb' (64 + 8 * e) 8) (s.v[m].extractLsb' (64 + 8 * e) 8)

/-- R71: PMULL 1Q completes with HAVE_PMULL64; the destination is the product of the lower halves. -/
def Obligations.PmullD1Completes : Prop :=
  ∀ (d n m : VReg) (s : State), s.params.havePmull64 = true → s.checkFPAdvSIMDEnabled64 = .enabled →
    s.pc.toNat + 4 < 2 ^ 64 →
    exec (.pmullD1 d n m) s =
      .next ((s.writeV d (polynomialMult (s.v[n].extractLsb' 0 64) (s.v[m].extractLsb' 0 64))).setPc (s.pc + 4#64))

/-- R72: PMULL2 1Q completes with HAVE_PMULL64; the destination is the product of the upper halves. -/
def Obligations.Pmull2D2Completes : Prop :=
  ∀ (d n m : VReg) (s : State), s.params.havePmull64 = true → s.checkFPAdvSIMDEnabled64 = .enabled →
    s.pc.toNat + 4 < 2 ^ 64 →
    exec (.pmull2D2 d n m) s =
      .next ((s.writeV d (polynomialMult (s.v[n].extractLsb' 64 64) (s.v[m].extractLsb' 64 64))).setPc (s.pc + 4#64))

/-- R69 to R72, corner cases: bit 15 of every halfword of an 8H result is 0, bit 127 of a 1Q result is 0, and a 1Q
result is zero exactly when a source half is zero. -/
def Obligations.ResultTopBitsAndZero : Prop :=
  ∀ (d n m : VReg) (s t : State),
    ((exec (.pmullB8 d n m) s = .next t ∨ exec (.pmull2B16 d n m) s = .next t) →
      ∀ e, e < 8 → t.v[d].getLsbD (16 * e + 15) = false) ∧
    (exec (.pmullD1 d n m) s = .next t →
      t.v[d].getLsbD 127 = false ∧
        (t.v[d] = 0#128 ↔ s.v[n].extractLsb' 0 64 = 0#64 ∨ s.v[m].extractLsb' 0 64 = 0#64)) ∧
    (exec (.pmull2D2 d n m) s = .next t →
      t.v[d].getLsbD 127 = false ∧
        (t.v[d] = 0#128 ↔ s.v[n].extractLsb' 64 64 = 0#64 ∨ s.v[m].extractLsb' 64 64 = 0#64))

/-- R68: every bit of `result` is assigned before it is read: what it held before the loop does not matter. -/
def Obligations.UnassignedResultNotObservable : Prop :=
  ∀ (before before' : BitVec 128) (operand1 operand2 : BitVec 64),
    productLanes 8 before operand1 operand2 8 = productLanes 8 before' operand1 operand2 8 ∧
      productLanes 64 before operand1 operand2 1 = productLanes 64 before' operand1 operand2 1

/-- R75 law 5: where access is enabled, swapping the sources changes nothing, in all four instructions. -/
def Obligations.SwappingSourcesChangesNothing : Prop :=
  ∀ (d n m : VReg) (s : State), s.checkFPAdvSIMDEnabled64 = .enabled →
    exec (.pmullB8 d n m) s = exec (.pmullB8 d m n) s ∧ exec (.pmull2B16 d n m) s = exec (.pmull2B16 d m n) s ∧
      (s.params.havePmull64 = true →
        exec (.pmullD1 d n m) s = exec (.pmullD1 d m n) s ∧ exec (.pmull2D2 d n m) s = exec (.pmull2D2 d m n) s)

/-- R76: PMULL2 is PMULL on the other half: equal selected halves, in any registers of any two states, give equal
results. -/
def Obligations.UpperFormIsLowerFormOnOtherHalf : Prop :=
  ∀ (d n m d' n' m' : VReg) (s t : State), s.checkFPAdvSIMDEnabled64 = .enabled →
    t.checkFPAdvSIMDEnabled64 = .enabled → s.pc.toNat + 4 < 2 ^ 64 → t.pc.toNat + 4 < 2 ^ 64 →
    t.v[n'].extractLsb' 0 64 = s.v[n].extractLsb' 64 64 → t.v[m'].extractLsb' 0 64 = s.v[m].extractLsb' 64 64 →
    (∃ r : BitVec 128, exec (.pmull2B16 d n m) s = .next ((s.writeV d r).setPc (s.pc + 4#64)) ∧
      exec (.pmullB8 d' n' m') t = .next ((t.writeV d' r).setPc (t.pc + 4#64))) ∧
    (s.params.havePmull64 = true → t.params.havePmull64 = true →
      ∃ r : BitVec 128, exec (.pmull2D2 d n m) s = .next ((s.writeV d r).setPc (s.pc + 4#64)) ∧
        exec (.pmullD1 d' n' m') t = .next ((t.writeV d' r).setPc (t.pc + 4#64)))

/-- R67, R28, R87: a word's instruction does what the page's decode and Operation pseudocode, transcribed whole, do with
it. The model's choices in it: the refusal at the top of the address space (log 10), the record of a fault (log 11), the
zeros before the loop (log 17). -/
def Obligations.ExecFollowsThePseudocode : Prop :=
  ∀ (s : State) (w : Word) (i : Instr), decode s.params.havePmull64 w = .ok i → exec i s = referenceStep w s

/-! Frames and what is not seen -/

/-- R35, R28: on `Next` only the destination register and `pc` change: every other SIMD&FP register, every other piece of
state and every byte of memory is as before. A fault has no next state, and its record holds the instruction's pc (R87,
D16; log 11). That `Next` is only where `pc + 4` stays inside the address space is the spec's decision D26 (log 10). -/
def Obligations.OnlyDestinationAndPcChange : Prop :=
  ∀ (i : Instr) (s : State),
    (∀ t, exec i s = .next t →
      ∃ d, destOf i = some d ∧ (∀ k : VReg, k ≠ d → t.v[k] = s.v[k]) ∧ SameOutsideVAndPc s t ∧
        (∀ a : Nat, t.mem.read a = s.mem.read a) ∧ t.pc = s.pc + 4#64 ∧ s.pc.toNat + 4 < 2 ^ 64) ∧
    (∀ f, exec i s = .fault f → faultPc f = s.pc)

/-- R26, R78, R92: two states of any Exception level, Security state and other registers that agree on the selected
halves of the sources, where both complete, write the same value. -/
def Obligations.ResultDependsOnTheHalvesReadAlone : Prop :=
  ∀ (i : Instr) (s t : State), undefinedIn s.params.havePmull64 i = false → undefinedIn t.params.havePmull64 i = false →
    s.checkFPAdvSIMDEnabled64 = .enabled → t.checkFPAdvSIMDEnabled64 = .enabled →
    s.pc.toNat + 4 < 2 ^ 64 → t.pc.toNat + 4 < 2 ^ 64 →
    s.vpart (sourcesOf i).1 (halfOf i) = t.vpart (sourcesOf i).1 (halfOf i) →
    s.vpart (sourcesOf i).2 (halfOf i) = t.vpart (sourcesOf i).2 (halfOf i) →
    ∃ (d : VReg) (r : BitVec 128), destOf i = some d ∧
      exec i s = .next ((s.writeV d r).setPc (s.pc + 4#64)) ∧ exec i t = .next ((t.writeV d r).setPc (t.pc + 4#64))

/-- A state with N, Z, C, V, the general registers, the stack pointers and memory replaced. -/
def withUnseen (n z c v : Bool) (x : Vector (BitVec 64) 31) (sp : Vector (BitVec 64) 4) (mem : Memory) (s : State) :
    State :=
  { s with pstate := withFlags s.pstate n z c v, x := x, sp := sp, mem := mem }

/-- R27, R29, R37: no instruction reads or writes a flag, a general register or a byte of memory: whatever they hold,
the outcome is the same and they are left as they are. -/
def Obligations.FlagsGeneralRegistersAndMemoryUnseen : Prop :=
  ∀ (i : Instr) (s : State) (n z c v : Bool) (x : Vector (BitVec 64) 31) (sp : Vector (BitVec 64) 4) (mem : Memory),
    exec i (withUnseen n z c v x sp mem s) = mapNext (withUnseen n z c v x sp mem) (exec i s)

/-- A state with PSTATE.DIT replaced. -/
def withDit (dit : Bool) (s : State) : State := { s with pstate := { s.pstate with dit := dit } }

/-- R30, R104: no register value, no exception and no outcome depends on PSTATE.DIT, and no instruction writes it. -/
def Obligations.DitUnseen : Prop :=
  ∀ (i : Instr) (s : State) (dit : Bool), exec i (withDit dit s) = mapNext (withDit dit) (exec i s)

/-! Exceptions (60_exceptions.md) -/

/-- R53, R82, R85, R87: the words of the reserved sizes, by either description, and their step: `Fault(Undefined)` with
the record of pc and word (log 11), whatever HAVE_PMULL64 and the enable check say: Undefined wins (log 12). -/
def Obligations.ReservedSizesAreUndefined : Prop :=
  ∀ (w : Word),
    ((w &&& 0xBF20FC00#32 = 0x0E20E000#32 ∧ (w.extractLsb' 22 2 = 0b01#2 ∨ w.extractLsb' 22 2 = 0b10#2)) ↔
      (w &&& 0xBFE0FC00#32 = 0x0E60E000#32 ∨ w &&& 0xBFE0FC00#32 = 0x0EA0E000#32)) ∧
    ∀ s : State, s.pc.toNat % 4 = 0 → fetchWord s.mem s.pc = some w →
      (w &&& 0xBFE0FC00#32 = 0x0E60E000#32 ∨ w &&& 0xBFE0FC00#32 = 0x0EA0E000#32) →
      step s = .fault (.undefined s.pc w)

/-- R54, R82, R85, R87: `size = 11` without HAVE_PMULL64: `Fault(Undefined)` with the record of pc and word (log 11),
whatever the enable check says: Undefined wins (log 12). -/
def Obligations.SixtyFourBitFormsUndefinedWithoutFeature : Prop :=
  ∀ (w : Word) (s : State), s.pc.toNat % 4 = 0 → fetchWord s.mem s.pc = some w →
    w &&& 0xBFE0FC00#32 = 0x0EE0E000#32 → s.params.havePmull64 = false → step s = .fault (.undefined s.pc w)

/-- R53, R54, R82: the three UNDEFINED rows stop in every state, with the record of R87 (log 11) and whatever the enable
check says (log 12). That row 7 stops with HAVE_PMULL64 too, where no word decodes to it, is the model's choice
(log 15). -/
def Obligations.UndefinedRowsAlwaysFault : Prop :=
  ∀ (q : BitVec 1) (d n m : VReg) (s : State),
    exec (.undefinedSize01 q d n m) s = .fault (.undefined s.pc (encode (.undefinedSize01 q d n m))) ∧
      exec (.undefinedSize10 q d n m) s = .fault (.undefined s.pc (encode (.undefinedSize10 q d n m))) ∧
      exec (.undefinedSize11 q d n m) s = .fault (.undefined s.pc (encode (.undefinedSize11 q d n m)))

/-- R83, R87: an instruction that is not UNDEFINED, where the enable check answers `Trap(target)`: the fault with
target, pc and word. -/
def Obligations.TrapWhenCheckSaysSo : Prop :=
  ∀ (i : Instr) (s : State) (target : HandlerEL), undefinedIn s.params.havePmull64 i = false →
    s.checkFPAdvSIMDEnabled64 = .trap target → exec i s = .fault (.fpAccessTrap target s.pc (encode i))

/-- R18, R74, R85, R28: which outcome, and when: UNDEFINED first, then the trap; `Next` exactly where neither holds and
the pc can advance; a refusal only at the top of the address space (D26; log 10). The model's choices in it: that
UNDEFINED is first (D7; log 12), the fault's record (log 11), and that row 7 is UNDEFINED with HAVE_PMULL64 too, where no
word decodes to it (log 15). -/
def Obligations.OutcomesExactly : Prop :=
  ∀ (i : Instr) (s : State),
    (exec i s = .fault (.undefined s.pc (encode i)) ↔ undefinedIn s.params.havePmull64 i = true) ∧
    (∀ target, exec i s = .fault (.fpAccessTrap target s.pc (encode i)) ↔
      undefinedIn s.params.havePmull64 i = false ∧ s.checkFPAdvSIMDEnabled64 = .trap target) ∧
    ((∃ t, exec i s = .next t) ↔
      undefinedIn s.params.havePmull64 i = false ∧ s.checkFPAdvSIMDEnabled64 = .enabled ∧ s.pc.toNat + 4 < 2 ^ 64) ∧
    (∀ r, exec i s = .refused r ↔
      r = .pcAtTop s.pc ∧ undefinedIn s.params.havePmull64 i = false ∧ s.checkFPAdvSIMDEnabled64 = .enabled ∧
        ¬ s.pc.toNat + 4 < 2 ^ 64)

/-- The five inputs of `FPSIMD_CHECK`, each from its own piece of the state (R16). -/
def inputsOf (s : State) : CheckInputs :=
  { cpacrEl1 := s.cpacrEl1, cptrEl2 := s.cptrEl2, cptrEl3 := s.cptrEl3, securityState := s.securityState,
    el := s.pstate.el }

/-- R16 (D2; how the open parameter is held is the model's choice, log 2; the usual algorithm is R84's, log 28): the
verdict of a state is the parameter's on the five inputs. The usual algorithm is applied to them; in a table the first
row with these inputs counts, else the one verdict; and states alike in parameters and inputs have one verdict. -/
def Obligations.EnableCheckIsTheParameterOnFiveInputs : Prop :=
  (∀ s : State, s.params.fpsimdCheck = .usual →
    s.checkFPAdvSIMDEnabled64 = usualCheck s.params.platform (inputsOf s)) ∧
  (∀ (s : State) (rows : List (CheckInputs × Verdict)) (otherwise : Verdict),
    s.params.fpsimdCheck = .table rows otherwise →
      (∀ before verdict after, rows = before ++ (inputsOf s, verdict) :: after →
        (∀ row ∈ before, row.1 ≠ inputsOf s) → s.checkFPAdvSIMDEnabled64 = verdict) ∧
      ((∀ row ∈ rows, row.1 ≠ inputsOf s) → s.checkFPAdvSIMDEnabled64 = otherwise)) ∧
  (∀ s t : State, s.params = t.params → s.cpacrEl1 = t.cpacrEl1 → s.cptrEl2 = t.cptrEl2 → s.cptrEl3 = t.cptrEl3 →
    s.securityState = t.securityState → s.pstate.el = t.pstate.el →
      s.checkFPAdvSIMDEnabled64 = t.checkFPAdvSIMDEnabled64)

/-- How far up an Exception level stands. -/
def rankOf : EL → Nat
  | .el0 => 0
  | .el1 => 1
  | .el2 => 2
  | .el3 => 3

/-- Step 1 of R84: at EL1, or at EL0 where EL2 does not host it (E2H and TGE 1 with EL2 enabled), CPACR_EL1.FPEN is
`x0`, or `01` at EL0. -/
def cpacrReason (p : Platform) (c : CheckInputs) : Prop :=
  (c.el = .el1 ∨ (c.el = .el0 ∧ ¬ (c.securityState ∈ p.el2EnabledIn ∧ p.hcrE2H = true ∧ p.hcrTGE = true))) ∧
    (c.cpacrEl1.getLsbD 20 = false ∨
      (c.cpacrEl1.getLsbD 21 = false ∧ c.cpacrEl1.getLsbD 20 = true ∧ c.el = .el0))

/-- Step 2 of R84: below EL3 with EL2 enabled, CPTR_EL2.TFP is 1; or, with E2H, CPTR_EL2.FPEN is `x0`, or `01` at EL0
with TGE. -/
def cptrEl2Reason (p : Platform) (c : CheckInputs) : Prop :=
  c.el ≠ .el3 ∧ c.securityState ∈ p.el2EnabledIn ∧
    ((p.hcrE2H = false ∧ c.cptrEl2.getLsbD 10 = true) ∨
      (p.hcrE2H = true ∧
        (c.cptrEl2.getLsbD 20 = false ∨
          (c.cptrEl2.getLsbD 21 = false ∧ c.cptrEl2.getLsbD 20 = true ∧ c.el = .el0 ∧ p.hcrTGE = true))))

/-- Step 3 of R84: EL3 is implemented and CPTR_EL3.TFP is 1. -/
def cptrEl3Reason (p : Platform) (c : CheckInputs) : Prop := p.el3Implemented = true ∧ c.cptrEl3.getLsbD 10 = true

/-- R84 (the spec's general knowledge; log 28): the usual check traps to each level exactly for the reason of that
level's test, a test to a lower level first, never to a level below the current one, and enables where none applies. -/
def Obligations.UsualCheckTrapsUpward : Prop :=
  ∀ (p : Platform) (c : CheckInputs),
    (∀ target, usualCheck p c = .trap target → rankOf c.el ≤ rankOf (levelOf target)) ∧
      (usualCheck p c = .trap .el1 ↔ cpacrReason p c) ∧
      (usualCheck p c = .trap .el2 ↔ ¬ cpacrReason p c ∧ cptrEl2Reason p c) ∧
      (usualCheck p c = .trap .el3 ↔ ¬ cpacrReason p c ∧ ¬ cptrEl2Reason p c ∧ cptrEl3Reason p c) ∧
      (usualCheck p c = .enabled ↔ ¬ cpacrReason p c ∧ ¬ cptrEl2Reason p c ∧ ¬ cptrEl3Reason p c)

/-- R101 (the spec's general knowledge; log 28): the field values that enable access do so at every level. -/
def Obligations.UsualCheckEnablingValues : Prop :=
  ∀ (p : Platform) (c : CheckInputs), fpenOf c.cpacrEl1 = 0b11#2 →
    (p.hcrE2H = false → tfpOf c.cptrEl2 = false) → (p.hcrE2H = true → fpenOf c.cptrEl2 = 0b11#2) →
    tfpOf c.cptrEl3 = false → usualCheck p c = .enabled

/-- HCR_EL2.TGE is 1 with EL2 enabled in the current Security state (R82; for R83 DEDUCED, log 22). -/
def tgeTakesEl0 (s : State) : Prop :=
  s.params.platform.hcrTGE = true ∧ s.securityState ∈ s.params.platform.el2EnabledIn

/-- R82, R83, R89 (the spec's general knowledge; logs 21, 22): to which level each fault's exception is taken, with which
syndrome, what entry saves, what PSTATE and pc become, and what it leaves. `step` does not take it. That TGE reroutes a
trap only with EL2 enabled is DEDUCED, that the Security state stays is UNVERIFIED (log 22); entry to a level below the
current one, its offset included, is the model's choice (log 29). -/
def Obligations.ExceptionEntrySavesAndJumps : Prop :=
  ∀ (s : State) (f : Fault),
    (∀ pc word, f = .undefined pc word →
      faultPc f = pc ∧ s.entrySyndrome f = 0x02000000#64 ∧
      (s.pstate.el = .el0 → ¬ tgeTakesEl0 s → s.entryTarget f = .el1) ∧
      (s.pstate.el = .el0 → tgeTakesEl0 s → s.entryTarget f = .el2) ∧
      (s.pstate.el = .el1 → s.entryTarget f = .el1) ∧
      (s.pstate.el = .el2 → s.entryTarget f = .el2) ∧
      (s.pstate.el = .el3 → s.entryTarget f = .el3)) ∧
    (∀ target pc word, f = .fpAccessTrap target pc word →
      faultPc f = pc ∧
      (target = .el1 ∧ s.pstate.el = .el0 ∧ tgeTakesEl0 s →
        s.entryTarget f = .el2 ∧ s.entrySyndrome f = 0x02000000#64) ∧
      (¬ (target = .el1 ∧ s.pstate.el = .el0 ∧ tgeTakesEl0 s) →
        s.entryTarget f = target ∧ s.entrySyndrome f = 0x1FE00000#64)) ∧
    ((s.takeException f).bank (s.entryTarget f)).elr = faultPc f ∧
    ((s.takeException f).bank (s.entryTarget f)).spsr = s.pstate ∧
    ((s.takeException f).bank (s.entryTarget f)).esr = s.entrySyndrome f ∧
    ((s.takeException f).bank (s.entryTarget f)).vbar = (s.bank (s.entryTarget f)).vbar ∧
    (s.takeException f).pstate =
      { s.pstate with
        el := levelOf (s.entryTarget f), spSel := true, d := true, a := true, i := true, f := true, nRW := false } ∧
    (s.takeException f).pc = (s.bank (s.entryTarget f)).vbar +
      (if s.pstate.el = levelOf (s.entryTarget f) then (if s.pstate.spSel then 0x200#64 else 0x000#64)
       else if s.pstate.nRW then 0x600#64 else 0x400#64) ∧
    (∀ y, y ≠ s.entryTarget f → (s.takeException f).bank y = s.bank y) ∧
    (s.takeException f).v = s.v ∧ (s.takeException f).x = s.x ∧ (s.takeException f).sp = s.sp ∧
    (s.takeException f).mem = s.mem ∧ (s.takeException f).securityState = s.securityState ∧
    (s.takeException f).cpacrEl1 = s.cpacrEl1 ∧ (s.takeException f).cptrEl2 = s.cptrEl2 ∧
    (s.takeException f).cptrEl3 = s.cptrEl3 ∧ (s.takeException f).idAa64isar0El1 = s.idAa64isar0El1 ∧
    (s.takeException f).params = s.params

/-- R90 (the spec's general knowledge; logs 21, 22, 29): returning from the handler goes back to the faulting instruction
with the PSTATE it had and the registers it had. -/
def Obligations.EntryThenReturnRestores : Prop :=
  ∀ (s : State) (f : Fault),
    (((s.takeException f).exceptionReturn (s.entryTarget f)).pc = faultPc f ∧
      ((s.takeException f).exceptionReturn (s.entryTarget f)).pstate = s.pstate ∧
      ((s.takeException f).exceptionReturn (s.entryTarget f)).v = s.v ∧
      ((s.takeException f).exceptionReturn (s.entryTarget f)).x = s.x ∧
      ((s.takeException f).exceptionReturn (s.entryTarget f)).mem = s.mem)

/-- R90 (the spec's general knowledge; logs 21, 22, 29): after a trap, entry, and a return to the same address, the
instruction faults again when the word is UNDEFINED, and completes once the check answers `Enabled`. -/
def Obligations.ReturnReexecutesTheInstruction : Prop :=
  ∀ (i : Instr) (s : State) (f : Fault) (cpacr cptr2 cptr3 : BitVec 64), exec i s = .fault f →
    let u : State :=
      { (s.takeException f).exceptionReturn (s.entryTarget f) with
        cpacrEl1 := cpacr, cptrEl2 := cptr2, cptrEl3 := cptr3 }
    (undefinedIn s.params.havePmull64 i = true → exec i u = .fault f) ∧
      (undefinedIn s.params.havePmull64 i = false → u.checkFPAdvSIMDEnabled64 = .enabled →
        s.pc.toNat + 4 < 2 ^ 64 → ∃ t, exec i u = .next t ∧ t.pc = s.pc + 4#64)

/-! The step, memory and the whole machine -/

/-- R18, R39: when the four bytes at `pc`, little-endian, decode to an instruction, the step is its execution; nothing
is added around it. -/
def Obligations.StepRunsTheDecodedInstruction : Prop :=
  ∀ (s : State) (b0 b1 b2 b3 : Byte) (i : Instr), s.pc.toNat % 4 = 0 →
    s.mem.read s.pc.toNat = some b0 → s.mem.read (s.pc + 1#64).toNat = some b1 →
    s.mem.read (s.pc + 2#64).toNat = some b2 → s.mem.read (s.pc + 3#64).toNat = some b3 →
    decode s.params.havePmull64 (b3 ++ b2 ++ b1 ++ b0) = .ok i → step s = exec i s

/-- R56 (D5; log 13): a word off the pattern is refused by name: no fault, no next state. -/
def Obligations.StepRefusesOtherWords : Prop :=
  ∀ (s : State) (w : Word), s.pc.toNat % 4 = 0 → fetchWord s.mem s.pc = some w →
    w &&& 0xBF20FC00#32 ≠ 0x0E20E000#32 → step s = .refused (.notPmull s.pc w)

/-- R40 (D11; log 9), R47 (log 7): no step from a misaligned pc, nor where a byte of the word has not been placed. -/
def Obligations.StepNeedsAlignedPlacedText : Prop :=
  ∀ s : State,
    (s.pc.toNat % 4 ≠ 0 → step s = .refused (.misalignedPc s.pc)) ∧
      (s.pc.toNat % 4 = 0 → (∃ k, k < 4 ∧ s.mem.read (s.pc + BitVec.ofNat 64 k).toNat = none) →
        step s = .refused (.noProgramText s.pc))

/-- The small law of memory: a byte reads as placed, and every other address as before (log 7). -/
def Obligations.ReadAfterWrite : Prop :=
  ∀ (m : Memory) (a a' : Nat) (b : Byte), (m.write a b).read a' = if a' = a then some b else m.read a'

/-- R39, R47 (log 7): the launch's placing of a well-formed instruction's word at an aligned pc is what the next step
fetches and executes. -/
def Obligations.PlacedInstructionRuns : Prop :=
  ∀ (s : State) (i : Instr), s.pc.toNat % 4 = 0 → i.wellFormed s.params.havePmull64 = true →
    step (s.withFetchWord 32 (encode i).toNat) = exec i (s.withFetchWord 32 (encode i).toNat)

/-- R35, R40, R33, R47: every step keeps the invariant: memory canonical, pc a multiple of 4, the identification
register in accord with the features implemented (log 25). -/
def Obligations.StepKeepsInvariant : Prop :=
  ∀ s t : State, s.Inv → step s = .next t → t.Inv

/-- The invariant holds after reset (values of logs 1, 6, 7, 25). -/
def Obligations.ResetMeetsInvariant : Prop := State.reset.Inv

/-- What `State.reset` leaves: the model's values (logs 1, 5, 6, 7, 25; the spec gives none). -/
def Obligations.ResetLeavesTheLoggedValues : Prop :=
  State.reset.pc = 0#64 ∧ State.reset.pstate.el = .el3 ∧ State.reset.pstate.dit = false ∧
    State.reset.pstate.spSel = true ∧ State.reset.pstate.nRW = false ∧
    (State.reset.pstate.d && State.reset.pstate.a && State.reset.pstate.i && State.reset.pstate.f) = true ∧
    State.reset.securityState = .secure ∧ State.reset.idAa64isar0El1 = 0x20#64 ∧ State.reset.mem = [] ∧
    State.reset.params = Config.launchParams

/-- R47, R103, R35, R28: along any run of `k` steps the program text and every piece of state but the SIMD&FP registers
and pc stay the same, and pc has advanced by 4 each step without wrapping. The model's choices in it: sequential
steps with no interrupt between them (R88, R102, D15, D20; log 19) and no step at the top of the address space (D26;
log 10). -/
def Obligations.RunKeepsTextAndControlState : Prop :=
  ∀ (k : Nat) (s t : State), Sys2Proof.core.run k s = .next t →
    SameOutsideVAndPc s t ∧ t.pc.toNat = s.pc.toNat + 4 * k

/-- R33 (the spec's general knowledge; log 25): after any run from a state that meets the invariant, software that reads
the field AES learns which of FEAT_PMULL and FEAT_AES the implementation has, and no other value is read. -/
def Obligations.AesFieldDisclosesFeatures : Prop :=
  ∀ (k : Nat) (s t : State), s.Inv → Sys2Proof.core.run k s = .next t →
    t.params = s.params ∧
    (t.idAa64isar0El1.extractLsb' 4 4 = 0b0010#4 ↔ s.params.havePmull64 = true ∧ s.params.haveAes = true) ∧
    (t.idAa64isar0El1.extractLsb' 4 4 = 0b0001#4 ↔ s.params.havePmull64 = false ∧ s.params.haveAes = true) ∧
    (t.idAa64isar0El1.extractLsb' 4 4 = 0b0000#4 ↔ s.params.havePmull64 = false ∧ s.params.haveAes = false)
end

