-- ==== Sys2Proof/Laws/Memory.lean ====
section
/-! SUPPORT. Every memory operation keeps the canonical form, and reset's memory has it. -/

namespace Sys2Proof.Machine

theorem Memory.risesFrom_le {b c : Nat} (h : b ≤ c) : ∀ {m : Memory}, Memory.risesFrom c m = true → Memory.risesFrom b m = true
  | [], _ => rfl
  | (a, _) :: rest, hm => by
    simp only [Memory.risesFrom, Bool.and_eq_true, decide_eq_true_eq] at hm ⊢
    exact ⟨⟨h.trans hm.1.1, hm.1.2⟩, hm.2⟩

theorem Memory.risesFrom_write {addr : Nat} (byte : Byte) (ha : addr < 2 ^ 64) :
    ∀ {m : Memory} {bound : Nat}, bound ≤ addr → Memory.risesFrom bound m = true →
      Memory.risesFrom bound (Memory.write m addr byte) = true
  | [], bound, hb, _ => by simpa [Memory.write, Memory.risesFrom, hb] using ha
  | (a, b) :: rest, bound, hb, hm => by
    simp only [Memory.risesFrom, Bool.and_eq_true, decide_eq_true_eq] at hm
    unfold Memory.write
    split
    · rename_i hlt
      simp only [Memory.risesFrom, Bool.and_eq_true, decide_eq_true_eq]
      exact ⟨⟨hb, ha⟩, ⟨hlt, hm.1.2⟩, hm.2⟩
    · split
      · rename_i heq
        subst heq
        simp only [Memory.risesFrom, Bool.and_eq_true, decide_eq_true_eq]
        exact ⟨⟨hb, ha⟩, hm.2⟩
      · rename_i hge hne
        simp only [Memory.risesFrom, Bool.and_eq_true, decide_eq_true_eq]
        exact ⟨hm.1, Memory.risesFrom_write byte ha (by omega) hm.2⟩

/-- Placing a byte inside the address space keeps the canonical form. -/
theorem Memory.write_wf {m : Memory} {addr : Nat} (byte : Byte) (ha : addr < 2 ^ 64) (hm : m.wf = true) :
    (Memory.write m addr byte).wf = true :=
  Memory.risesFrom_write byte ha (Nat.zero_le _) hm

theorem byteAddr_lt (pc : BitVec 64) (k : Nat) : byteAddr pc k < 2 ^ 64 := BitVec.isLt _

/-- Placing an instruction word keeps the canonical form. -/
theorem placeWord_wf {m : Memory} (pc : BitVec 64) (w : Word) (hm : m.wf = true) : (placeWord m pc w).wf = true :=
  Memory.write_wf _ (byteAddr_lt pc 3) (Memory.write_wf _ (byteAddr_lt pc 2)
    (Memory.write_wf _ (byteAddr_lt pc 1) (Memory.write_wf _ (byteAddr_lt pc 0) hm)))

/-- The launch keeps the canonical form. -/
theorem State.withFetchWord_wf {s : State} (n w : Nat) (hm : s.mem.wf = true) : (s.withFetchWord n w).mem.wf = true :=
  placeWord_wf _ _ hm

theorem reset_mem_wf : State.reset.mem.wf = true := rfl

end Sys2Proof.Machine
end

