-- ==== Sys2Proof/Laws/State.lean ====
section
/-! SUPPORT. One lemma per field per update of the state, and what the accessors read after an update. -/

namespace Sys2Proof.Machine

/-! `writeV` (R23) -/

@[simp] theorem State.writeV_v (s : State) {w : Nat} (d : VReg) (r : BitVec w) : (s.writeV d r).v = s.v.set d.val (r.setWidth 128) d.isLt := rfl
@[simp] theorem State.writeV_pc (s : State) {w : Nat} (d : VReg) (r : BitVec w) : (s.writeV d r).pc = s.pc := rfl
@[simp] theorem State.writeV_pstate (s : State) {w : Nat} (d : VReg) (r : BitVec w) : (s.writeV d r).pstate = s.pstate := rfl
@[simp] theorem State.writeV_securityState (s : State) {w : Nat} (d : VReg) (r : BitVec w) : (s.writeV d r).securityState = s.securityState := rfl
@[simp] theorem State.writeV_cpacrEl1 (s : State) {w : Nat} (d : VReg) (r : BitVec w) : (s.writeV d r).cpacrEl1 = s.cpacrEl1 := rfl
@[simp] theorem State.writeV_cptrEl2 (s : State) {w : Nat} (d : VReg) (r : BitVec w) : (s.writeV d r).cptrEl2 = s.cptrEl2 := rfl
@[simp] theorem State.writeV_cptrEl3 (s : State) {w : Nat} (d : VReg) (r : BitVec w) : (s.writeV d r).cptrEl3 = s.cptrEl3 := rfl
@[simp] theorem State.writeV_idAa64isar0El1 (s : State) {w : Nat} (d : VReg) (r : BitVec w) : (s.writeV d r).idAa64isar0El1 = s.idAa64isar0El1 := rfl
@[simp] theorem State.writeV_x (s : State) {w : Nat} (d : VReg) (r : BitVec w) : (s.writeV d r).x = s.x := rfl
@[simp] theorem State.writeV_sp (s : State) {w : Nat} (d : VReg) (r : BitVec w) : (s.writeV d r).sp = s.sp := rfl
@[simp] theorem State.writeV_bank1 (s : State) {w : Nat} (d : VReg) (r : BitVec w) : (s.writeV d r).bank1 = s.bank1 := rfl
@[simp] theorem State.writeV_bank2 (s : State) {w : Nat} (d : VReg) (r : BitVec w) : (s.writeV d r).bank2 = s.bank2 := rfl
@[simp] theorem State.writeV_bank3 (s : State) {w : Nat} (d : VReg) (r : BitVec w) : (s.writeV d r).bank3 = s.bank3 := rfl
@[simp] theorem State.writeV_mem (s : State) {w : Nat} (d : VReg) (r : BitVec w) : (s.writeV d r).mem = s.mem := rfl
@[simp] theorem State.writeV_params (s : State) {w : Nat} (d : VReg) (r : BitVec w) : (s.writeV d r).params = s.params := rfl

@[simp] theorem State.writeV_v_self {w : Nat} (s : State) (d : VReg) (r : BitVec w) :
    (s.writeV d r).v[d] = r.setWidth 128 := by simp

theorem State.writeV_v_other {w : Nat} (s : State) (d k : VReg) (r : BitVec w) (h : k ≠ d) :
    (s.writeV d r).v[k] = s.v[k] := by
  have h' : d.val ≠ k.val := fun e => h (Fin.ext e.symm)
  simp [h']

/-! `setPc` (R28) -/

@[simp] theorem State.setPc_v (s : State) (p : BitVec 64) : (s.setPc p).v = s.v := rfl
@[simp] theorem State.setPc_pc (s : State) (p : BitVec 64) : (s.setPc p).pc = p := rfl
@[simp] theorem State.setPc_pstate (s : State) (p : BitVec 64) : (s.setPc p).pstate = s.pstate := rfl
@[simp] theorem State.setPc_securityState (s : State) (p : BitVec 64) : (s.setPc p).securityState = s.securityState := rfl
@[simp] theorem State.setPc_cpacrEl1 (s : State) (p : BitVec 64) : (s.setPc p).cpacrEl1 = s.cpacrEl1 := rfl
@[simp] theorem State.setPc_cptrEl2 (s : State) (p : BitVec 64) : (s.setPc p).cptrEl2 = s.cptrEl2 := rfl
@[simp] theorem State.setPc_cptrEl3 (s : State) (p : BitVec 64) : (s.setPc p).cptrEl3 = s.cptrEl3 := rfl
@[simp] theorem State.setPc_idAa64isar0El1 (s : State) (p : BitVec 64) : (s.setPc p).idAa64isar0El1 = s.idAa64isar0El1 := rfl
@[simp] theorem State.setPc_x (s : State) (p : BitVec 64) : (s.setPc p).x = s.x := rfl
@[simp] theorem State.setPc_sp (s : State) (p : BitVec 64) : (s.setPc p).sp = s.sp := rfl
@[simp] theorem State.setPc_bank1 (s : State) (p : BitVec 64) : (s.setPc p).bank1 = s.bank1 := rfl
@[simp] theorem State.setPc_bank2 (s : State) (p : BitVec 64) : (s.setPc p).bank2 = s.bank2 := rfl
@[simp] theorem State.setPc_bank3 (s : State) (p : BitVec 64) : (s.setPc p).bank3 = s.bank3 := rfl
@[simp] theorem State.setPc_mem (s : State) (p : BitVec 64) : (s.setPc p).mem = s.mem := rfl
@[simp] theorem State.setPc_params (s : State) (p : BitVec 64) : (s.setPc p).params = s.params := rfl

/-! `setPstate` (R89, R90) -/

@[simp] theorem State.setPstate_v (s : State) (p : Pstate) : (s.setPstate p).v = s.v := rfl
@[simp] theorem State.setPstate_pc (s : State) (p : Pstate) : (s.setPstate p).pc = s.pc := rfl
@[simp] theorem State.setPstate_pstate (s : State) (p : Pstate) : (s.setPstate p).pstate = p := rfl
@[simp] theorem State.setPstate_securityState (s : State) (p : Pstate) : (s.setPstate p).securityState = s.securityState := rfl
@[simp] theorem State.setPstate_cpacrEl1 (s : State) (p : Pstate) : (s.setPstate p).cpacrEl1 = s.cpacrEl1 := rfl
@[simp] theorem State.setPstate_cptrEl2 (s : State) (p : Pstate) : (s.setPstate p).cptrEl2 = s.cptrEl2 := rfl
@[simp] theorem State.setPstate_cptrEl3 (s : State) (p : Pstate) : (s.setPstate p).cptrEl3 = s.cptrEl3 := rfl
@[simp] theorem State.setPstate_idAa64isar0El1 (s : State) (p : Pstate) : (s.setPstate p).idAa64isar0El1 = s.idAa64isar0El1 := rfl
@[simp] theorem State.setPstate_x (s : State) (p : Pstate) : (s.setPstate p).x = s.x := rfl
@[simp] theorem State.setPstate_sp (s : State) (p : Pstate) : (s.setPstate p).sp = s.sp := rfl
@[simp] theorem State.setPstate_bank1 (s : State) (p : Pstate) : (s.setPstate p).bank1 = s.bank1 := rfl
@[simp] theorem State.setPstate_bank2 (s : State) (p : Pstate) : (s.setPstate p).bank2 = s.bank2 := rfl
@[simp] theorem State.setPstate_bank3 (s : State) (p : Pstate) : (s.setPstate p).bank3 = s.bank3 := rfl
@[simp] theorem State.setPstate_mem (s : State) (p : Pstate) : (s.setPstate p).mem = s.mem := rfl
@[simp] theorem State.setPstate_params (s : State) (p : Pstate) : (s.setPstate p).params = s.params := rfl

/-! `setBank` (R89) -/

@[simp] theorem State.setBank_v (s : State) (x : HandlerEL) (b : ElBank) : (s.setBank x b).v = s.v := by cases x <;> rfl
@[simp] theorem State.setBank_pc (s : State) (x : HandlerEL) (b : ElBank) : (s.setBank x b).pc = s.pc := by cases x <;> rfl
@[simp] theorem State.setBank_pstate (s : State) (x : HandlerEL) (b : ElBank) : (s.setBank x b).pstate = s.pstate := by cases x <;> rfl
@[simp] theorem State.setBank_securityState (s : State) (x : HandlerEL) (b : ElBank) : (s.setBank x b).securityState = s.securityState := by cases x <;> rfl
@[simp] theorem State.setBank_cpacrEl1 (s : State) (x : HandlerEL) (b : ElBank) : (s.setBank x b).cpacrEl1 = s.cpacrEl1 := by cases x <;> rfl
@[simp] theorem State.setBank_cptrEl2 (s : State) (x : HandlerEL) (b : ElBank) : (s.setBank x b).cptrEl2 = s.cptrEl2 := by cases x <;> rfl
@[simp] theorem State.setBank_cptrEl3 (s : State) (x : HandlerEL) (b : ElBank) : (s.setBank x b).cptrEl3 = s.cptrEl3 := by cases x <;> rfl
@[simp] theorem State.setBank_idAa64isar0El1 (s : State) (x : HandlerEL) (b : ElBank) : (s.setBank x b).idAa64isar0El1 = s.idAa64isar0El1 := by cases x <;> rfl
@[simp] theorem State.setBank_x (s : State) (x : HandlerEL) (b : ElBank) : (s.setBank x b).x = s.x := by cases x <;> rfl
@[simp] theorem State.setBank_sp (s : State) (x : HandlerEL) (b : ElBank) : (s.setBank x b).sp = s.sp := by cases x <;> rfl
@[simp] theorem State.setBank_mem (s : State) (x : HandlerEL) (b : ElBank) : (s.setBank x b).mem = s.mem := by cases x <;> rfl
@[simp] theorem State.setBank_params (s : State) (x : HandlerEL) (b : ElBank) : (s.setBank x b).params = s.params := by cases x <;> rfl

@[simp] theorem State.bank_setBank_self (s : State) (x : HandlerEL) (b : ElBank) : (s.setBank x b).bank x = b := by
  cases x <;> rfl

theorem State.bank_setBank_other (s : State) (x y : HandlerEL) (b : ElBank) (h : y ≠ x) :
    (s.setBank x b).bank y = s.bank y := by
  cases x <;> cases y <;> first | rfl | exact absurd rfl h

@[simp] theorem State.bank_setPstate (s : State) (p : Pstate) (x : HandlerEL) : (s.setPstate p).bank x = s.bank x := by
  cases x <;> rfl

@[simp] theorem State.bank_setPc (s : State) (p : BitVec 64) (x : HandlerEL) : (s.setPc p).bank x = s.bank x := by
  cases x <;> rfl

/-! `withFetchWord` (R39, R47) -/

@[simp] theorem State.withFetchWord_v (s : State) (n w : Nat) : (s.withFetchWord n w).v = s.v := rfl
@[simp] theorem State.withFetchWord_pc (s : State) (n w : Nat) : (s.withFetchWord n w).pc = s.pc := rfl
@[simp] theorem State.withFetchWord_pstate (s : State) (n w : Nat) : (s.withFetchWord n w).pstate = s.pstate := rfl
@[simp] theorem State.withFetchWord_securityState (s : State) (n w : Nat) : (s.withFetchWord n w).securityState = s.securityState := rfl
@[simp] theorem State.withFetchWord_cpacrEl1 (s : State) (n w : Nat) : (s.withFetchWord n w).cpacrEl1 = s.cpacrEl1 := rfl
@[simp] theorem State.withFetchWord_cptrEl2 (s : State) (n w : Nat) : (s.withFetchWord n w).cptrEl2 = s.cptrEl2 := rfl
@[simp] theorem State.withFetchWord_cptrEl3 (s : State) (n w : Nat) : (s.withFetchWord n w).cptrEl3 = s.cptrEl3 := rfl
@[simp] theorem State.withFetchWord_idAa64isar0El1 (s : State) (n w : Nat) : (s.withFetchWord n w).idAa64isar0El1 = s.idAa64isar0El1 := rfl
@[simp] theorem State.withFetchWord_x (s : State) (n w : Nat) : (s.withFetchWord n w).x = s.x := rfl
@[simp] theorem State.withFetchWord_sp (s : State) (n w : Nat) : (s.withFetchWord n w).sp = s.sp := rfl
@[simp] theorem State.withFetchWord_bank1 (s : State) (n w : Nat) : (s.withFetchWord n w).bank1 = s.bank1 := rfl
@[simp] theorem State.withFetchWord_bank2 (s : State) (n w : Nat) : (s.withFetchWord n w).bank2 = s.bank2 := rfl
@[simp] theorem State.withFetchWord_bank3 (s : State) (n w : Nat) : (s.withFetchWord n w).bank3 = s.bank3 := rfl
@[simp] theorem State.withFetchWord_mem (s : State) (n w : Nat) : (s.withFetchWord n w).mem = placeWord s.mem s.pc (tableWord n w) := rfl
@[simp] theorem State.withFetchWord_params (s : State) (n w : Nat) : (s.withFetchWord n w).params = s.params := rfl

/-! What the enable check reads (R16) -/

/-- The verdict is a function of the parameters and the five inputs. -/
theorem State.checkFPAdvSIMDEnabled64_congr {s t : State} (hp : t.params = s.params)
    (hc : t.checkInputs = s.checkInputs) : t.checkFPAdvSIMDEnabled64 = s.checkFPAdvSIMDEnabled64 := by
  simp [State.checkFPAdvSIMDEnabled64, hp, hc]

end Sys2Proof.Machine
end

