-- ==== Sys2Proof/Laws/Ops.lean ====
section
/-! SUPPORT. What each shared operation can do, said once: cited instead of unfolded. -/

namespace Sys2Proof.Machine

/-- Completing answers the state with `pc + 4` where that stays inside the address space, and refuses elsewhere. -/
theorem State.advance_of_lt {s : State} (h : s.pc.toNat + 4 < 2 ^ 64) : s.advance = .next (s.setPc (s.pc + 4#64)) :=
  if_pos h

theorem State.advance_of_not_lt {s : State} (h : ¬ s.pc.toNat + 4 < 2 ^ 64) : s.advance = .refused (.pcAtTop s.pc) :=
  if_neg h

/-- When completing answers a next state, `pc + 4` is inside the address space and the next state is that one. -/
theorem State.advance_next {s t : State} (h : s.advance = .next t) :
    s.pc.toNat + 4 < 2 ^ 64 ∧ t = s.setPc (s.pc + 4#64) := by
  by_cases hlt : s.pc.toNat + 4 < 2 ^ 64
  · rw [State.advance_of_lt hlt] at h
    exact ⟨hlt, (Host.Outcome.next.inj h).symm⟩
  · rw [State.advance_of_not_lt hlt] at h
    cases h

/-- The result that the shared operation writes. -/
def lanesOf (part : Half) (esize elements : Nat) (n m : VReg) (s : State) : BitVec 128 :=
  productLanes esize 0#128 (s.vpart n part) (s.vpart m part) elements

/-- The shared operation where access is enabled: one register write and the advance. -/
theorem polynomialMultiplyLong_of_enabled {s : State} (h : s.checkFPAdvSIMDEnabled64 = .enabled) (word : Word)
    (part : Half) (esize elements : Nat) (d n m : VReg) :
    polynomialMultiplyLong word part esize elements d n m s = (s.writeV d (lanesOf part esize elements n m s)).advance := by
  simp [polynomialMultiplyLong, h, lanesOf]

/-- The shared operation where access is trapped: the fault with its record. -/
theorem polynomialMultiplyLong_of_trap {s : State} {target : HandlerEL}
    (h : s.checkFPAdvSIMDEnabled64 = .trap target) (word : Word) (part : Half) (esize elements : Nat) (d n m : VReg) :
    polynomialMultiplyLong word part esize elements d n m s = .fault (.fpAccessTrap target s.pc word) := by
  simp [polynomialMultiplyLong, h, State.raiseFPAccessTrap]

/-- Everything the shared operation can do when it answers a next state. -/
theorem polynomialMultiplyLong_next {s t : State} {word : Word} {part : Half} {esize elements : Nat} {d n m : VReg}
    (h : polynomialMultiplyLong word part esize elements d n m s = .next t) :
    s.checkFPAdvSIMDEnabled64 = .enabled ∧ s.pc.toNat + 4 < 2 ^ 64 ∧
      t = (s.writeV d (lanesOf part esize elements n m s)).setPc (s.pc + 4#64) := by
  cases hc : s.checkFPAdvSIMDEnabled64 with
  | trap target =>
    rw [polynomialMultiplyLong_of_trap hc] at h
    cases h
  | enabled =>
    rw [polynomialMultiplyLong_of_enabled hc] at h
    exact ⟨rfl, State.advance_next h⟩

/-- The 64-bit form with HAVE_PMULL64 is the shared operation on one 64-bit lane. -/
theorem polynomialMultiplyLong64_of_have {s : State} (h : s.params.havePmull64 = true) (word : Word) (part : Half)
    (d n m : VReg) : polynomialMultiplyLong64 word part d n m s = polynomialMultiplyLong word part 64 1 d n m s :=
  if_pos h

/-- The 64-bit form without HAVE_PMULL64 is UNDEFINED. -/
theorem polynomialMultiplyLong64_of_not_have {s : State} (h : s.params.havePmull64 = false) (word : Word)
    (part : Half) (d n m : VReg) : polynomialMultiplyLong64 word part d n m s = .fault (.undefined s.pc word) := by
  simp [polynomialMultiplyLong64, h, State.raiseUndefined]

/-- Everything an instruction can do when it answers a next state: one SIMD&FP register written, `pc + 4`. -/
theorem exec_next {i : Instr} {s t : State} (h : exec i s = .next t) :
    s.checkFPAdvSIMDEnabled64 = .enabled ∧ s.pc.toNat + 4 < 2 ^ 64 ∧
      ∃ (d : VReg) (r : BitVec 128), t = (s.writeV d r).setPc (s.pc + 4#64) := by
  have wide : ∀ {word part d n m}, polynomialMultiplyLong64 word part d n m s = .next t →
      polynomialMultiplyLong word part 64 1 d n m s = .next t := by
    intro word part d n m h
    cases hh : s.params.havePmull64
    · rw [polynomialMultiplyLong64_of_not_have hh] at h
      cases h
    · rwa [polynomialMultiplyLong64_of_have hh] at h
  cases i with
  | pmullB8 d n m => exact let ⟨a, b, c⟩ := polynomialMultiplyLong_next h; ⟨a, b, d, _, c⟩
  | pmull2B16 d n m => exact let ⟨a, b, c⟩ := polynomialMultiplyLong_next h; ⟨a, b, d, _, c⟩
  | pmullD1 d n m => exact let ⟨a, b, c⟩ := polynomialMultiplyLong_next (wide h); ⟨a, b, d, _, c⟩
  | pmull2D2 d n m => exact let ⟨a, b, c⟩ := polynomialMultiplyLong_next (wide h); ⟨a, b, d, _, c⟩
  | undefinedSize01 q d n m => cases h
  | undefinedSize10 q d n m => cases h
  | undefinedSize11 q d n m => cases h

/-- A step that answers a next state has fetched an instruction and executed it. -/
theorem step_next {s t : State} (h : step s = .next t) : ∃ i, s.fetchInstr = .ok i ∧ exec i s = .next t := by
  unfold step at h
  cases hf : s.fetchInstr with
  | error r => simp [hf] at h
  | ok i => exact ⟨i, rfl, by simpa [hf] using h⟩

/-- Everything fetching can do when it gives an instruction. -/
theorem State.fetchInstr_ok {s : State} {i : Instr} (h : s.fetchInstr = .ok i) :
    s.pc.toNat % 4 = 0 ∧ ∃ w, fetchWord s.mem s.pc = some w ∧ decode s.params.havePmull64 w = .ok i := by
  unfold State.fetchInstr at h
  split at h
  · cases h
  · rename_i ha
    refine ⟨not_not.mp ha, ?_⟩
    cases hw : fetchWord s.mem s.pc with
    | none => simp [hw] at h
    | some w =>
      refine ⟨w, rfl, ?_⟩
      cases hd : decode s.params.havePmull64 w with
      | error e => simp [hw, hd] at h
      | ok j => simpa [hw, hd] using h

/-! The table of verdicts (R16, log 2), row by row -/

@[simp] theorem tableCheck_nil (otherwise : Verdict) (c : CheckInputs) : tableCheck otherwise [] c = otherwise := rfl

@[simp] theorem tableCheck_cons_self (otherwise verdict : Verdict) (rows : List (CheckInputs × Verdict))
    (c : CheckInputs) : tableCheck otherwise ((c, verdict) :: rows) c = verdict := if_pos rfl

theorem tableCheck_cons_other {otherwise verdict : Verdict} {rows : List (CheckInputs × Verdict)} {k c : CheckInputs}
    (h : k ≠ c) : tableCheck otherwise ((k, verdict) :: rows) c = tableCheck otherwise rows c := if_neg (Ne.symm h)

/-! The three readings of the field AES (R33) -/

@[simp] theorem aesFieldFor_pmull (haveAes : Bool) : aesFieldFor true haveAes = 0b0010#4 := rfl
@[simp] theorem aesFieldFor_aes_alone : aesFieldFor false true = 0b0001#4 := rfl
@[simp] theorem aesFieldFor_neither : aesFieldFor false false = 0b0000#4 := rfl

/-- Taking an exception, field by field of the saved bank (R89). -/
theorem State.takeException_bank (s : State) (f : Fault) :
    (s.takeException f).bank (s.entryTarget f) =
      { (s.bank (s.entryTarget f)) with
        elr := faultPc f
        spsr := s.pstate
        esr := s.entrySyndrome f
        far := Config.farAfterEntry (s.bank (s.entryTarget f)).far (faultPc f) } := by
  simp [State.takeException]

end Sys2Proof.Machine
end

