-- ==== Sys2Proof/Laws/PerInstr.lean ====
section
/-! SUPPORT. One lemma per constructor of Instr: the word of every instruction has the fixed bits of the format. -/

namespace Sys2Proof.Laws

/-- Every choice of fields gives a word of the pattern (R50, R64). -/
theorem encodeFields_fits (q : BitVec 1) (size : BitVec 2) (d n m : VReg) :
    encodeFields q size d n m &&& 0xBF20FC00#32 = 0x0E20E000#32 := by
  unfold encodeFields bitsOfReg patternMatch
  apply BitVec.eq_of_getLsbD_eq
  intro k hk
  interval_cases k <;> simp

end Sys2Proof.Laws

namespace Sys2Proof.Laws.PatternWord

/-- The instruction's word is one of the page's pattern (R50). -/
def Statement (i : Instr) : Prop := encode i &&& 0xBF20FC00#32 = 0x0E20E000#32

theorem pmullB8 (d n m : VReg) : Statement (.pmullB8 d n m) := encodeFields_fits _ _ d n m
theorem pmull2B16 (d n m : VReg) : Statement (.pmull2B16 d n m) := encodeFields_fits _ _ d n m
theorem pmullD1 (d n m : VReg) : Statement (.pmullD1 d n m) := encodeFields_fits _ _ d n m
theorem pmull2D2 (d n m : VReg) : Statement (.pmull2D2 d n m) := encodeFields_fits _ _ d n m
theorem undefinedSize01 (q : BitVec 1) (d n m : VReg) : Statement (.undefinedSize01 q d n m) := encodeFields_fits q _ d n m
theorem undefinedSize10 (q : BitVec 1) (d n m : VReg) : Statement (.undefinedSize10 q d n m) := encodeFields_fits q _ d n m
theorem undefinedSize11 (q : BitVec 1) (d n m : VReg) : Statement (.undefinedSize11 q d n m) := encodeFields_fits q _ d n m

end Sys2Proof.Laws.PatternWord
end

