-- ==== Sys2Proof/Tests/Slice0.lean ====
section
/-! SUPPORT. The model's own tests. Expected values come from spec/95_test_vectors.md and the words of R55, written out by
hand; every statement of Certificates/Slice0/Obligations.lean that has hypotheses has a witness here. -/

namespace Sys2Proof.Tests

open Sys2Proof Sys2Proof.Machine

/-! Helpers: a launch state as 95 section 4 describes it, and what a test reads off an outcome. -/

/-- V0 and V1 as given, the other registers 0. -/
def fileOf (v0 v1 : BitVec 128) : Vector (BitVec 128) 32 := ((Vector.replicate 32 0#128).set 0 v0).set 1 v1

/-- A launch at `pc` with the given parameters. -/
def bench (havePmull64 : Bool) (verdict : Verdict) (pc : BitVec 64) (v0 v1 : BitVec 128) : State :=
  { State.reset with
    v := fileOf v0 v1
    pc := pc
    params := { Config.launchParams with havePmull64 := havePmull64, fpsimdCheck := .table [] verdict } }

/-- The inputs of 95 section 4.1, at 0x1000. -/
def bench41 : State :=
  bench true .enabled 0x1000#64 0x0F0E0D0C0B0A09080706050403020100#128 0xFF80C3A55A3C7F018040201008040201#128

/-- The inputs of 95 section 4.2, at 0x1000. -/
def bench42 : State :=
  bench true .enabled 0x1000#64 0x0123456789ABCDEFFEDCBA9876543210#128 0x0F1E2D3C4B5A69788796A5B4C3D2E1F0#128

/-- What register `d` and the pc hold after a completed instruction. -/
def after (r : Result) (d : VReg) : Option (BitVec 128 × BitVec 64) :=
  match r with
  | .next s => some (s.v[d], s.pc)
  | .fault _ => none
  | .refused _ => none

/-- The fault of an outcome. -/
def faultOf (r : Result) : Option Fault :=
  match r with
  | .next _ => none
  | .fault f => some f
  | .refused _ => none

/-- The refusal of an outcome. -/
def refusalOf (r : Result) : Option Refusal :=
  match r with
  | .next _ => none
  | .fault _ => none
  | .refused x => some x

/-- What a decoder result is, with the refusals told apart. -/
def decoded (r : Except DecodeError Instr) : Option Instr :=
  match r with
  | .ok i => some i
  | .error _ => none

/-! WellFormed: each check refuses an ill-formed term (R55, column `needs`) -/

theorem test_pmullD1_needs_the_feature : (Instr.pmullD1 0 1 2).wellFormed false = false := by decide
theorem test_pmull2D2_needs_the_feature : (Instr.pmull2D2 0 1 2).wellFormed false = false := by decide
theorem test_row7_needs_its_absence : (Instr.undefinedSize11 0#1 0 1 2).wellFormed true = false := by decide
theorem test_pmullD1_wellFormed : (Instr.pmullD1 0 1 2).wellFormed true = true := by decide

/-! Decoding: words written out bit by bit from R49, one for each row of R55 (95 section 2.1, 2.2) -/

/-- 0 0 0 01110 00 1 00010 1110 00 00001 00000. -/
theorem test_decode_pmullB8 : decoded (decode true 0b00001110001000101110000000100000#32) = some (.pmullB8 0 1 2) := by decide
/-- 0 1 0 01110 00 1 00111 1110 00 00110 00101. -/
theorem test_decode_pmull2B16 : decoded (decode true 0b01001110001001111110000011000101#32) = some (.pmull2B16 5 6 7) := by decide
/-- 0 0 0 01110 11 1 10001 1110 00 01001 10100. -/
theorem test_decode_pmullD1 : decoded (decode true 0b00001110111100011110000100110100#32) = some (.pmullD1 20 9 17) := by decide
/-- 0 1 0 01110 11 1 11111 1110 00 11111 11111: register number 31 is ordinary. -/
theorem test_decode_pmull2D2 : decoded (decode true 0b01001110111111111110001111111111#32) = some (.pmull2D2 31 31 31) := by decide
/-- 0 0 0 01110 01 1 00010 1110 00 00001 00000. -/
theorem test_decode_size01 : decoded (decode true 0b00001110011000101110000000100000#32) = some (.undefinedSize01 0#1 0 1 2) := by decide
/-- 0 1 0 01110 10 1 00010 1110 00 00001 00000. -/
theorem test_decode_size10 : decoded (decode false 0b01001110101000101110000000100000#32) = some (.undefinedSize10 1#1 0 1 2) := by decide
/-- 0 1 0 01110 11 1 00010 1110 00 00001 00000 without FEAT_PMULL. -/
theorem test_decode_size11 : decoded (decode false 0b01001110111000101110000000100000#32) = some (.undefinedSize11 1#1 0 1 2) := by decide

/-- 95 section 2.3: one fixed bit changed is refused. -/
theorem test_decode_refuses_neighbours :
    [0x8E22E020#32, 0x2E22E020#32, 0x1E22E020#32, 0x0E02E020#32, 0x0E22C020#32, 0x0E22E420#32].map
      (fun w => decoded (decode true w)) = [none, none, none, none, none, none] := by decide

/-- 95 section 2.1: the bytes `C5 E0 27 4E` at ascending addresses. -/
theorem test_decode_bytes :
    (match decodeBytes true [0xC5#8, 0xE0#8, 0x27#8, 0x4E#8, 0x00#8] with
      | .ok (i, rest) => decide (i = .pmull2B16 5 6 7 ∧ rest = [0x00#8])
      | .error _ => false) = true := by decide

/-- Three bytes are no instruction. -/
theorem test_decode_truncated :
    (match decodeBytes true [0xC5#8, 0xE0#8, 0x27#8] with
      | .ok _ => false
      | .error e => decide (e = .truncated)) = true := by decide

/-- 95 section 2: the words of the seven rows. -/
theorem test_encode_words :
    [encode (.pmullB8 0 1 2), encode (.pmull2B16 0 1 2), encode (.pmullD1 5 5 5), encode (.pmull2D2 20 9 17),
      encode (.undefinedSize01 1#1 0 1 2), encode (.undefinedSize10 0#1 0 1 2), encode (.undefinedSize11 0#1 0 1 2)] =
    [0x0E22E020#32, 0x4E22E020#32, 0x0EE5E0A5#32, 0x4EF1E134#32, 0x4E62E020#32, 0x0EA2E020#32, 0x0EE2E020#32] := by decide

/-! The product (95 section 3) -/

theorem test_product_53_CA : polynomialMult 0x53#8 0xCA#8 = 0x3F7E#16 := by decide
theorem test_product_largest : polynomialMult 0xFE#8 0x81#8 = 0x7FFE#16 := by decide
theorem test_product_64 :
    polynomialMult 0x0123456789ABCDEF#64 0xFEDCBA9876543210#64 = 0x00E038D8688850B040A0789828C810F0#128 := by decide +kernel

/-! The four instructions (95 section 4): at most two tests each -/

theorem test_pmullB8_41 :
    after (exec (.pmullB8 2 0 1) bench41) 2 = some (0x0380018000A000400018000800020000#128, 0x1004#64) := by decide +kernel
/-- Destination = first source (95 section 4.3). -/
theorem test_pmullB8_destination_is_source :
    after (exec (.pmullB8 0 0 1) bench41) 0 = some (0x0380018000A000400018000800020000#128, 0x1004#64) := by decide +kernel
theorem test_pmull2B16_41 :
    after (exec (.pmull2B16 3 0 1) bench41) 3 = some (0x0505070005D707BC023E019803870008#128, 0x1004#64) := by decide +kernel
theorem test_pmull2B16_42 :
    after (exec (.pmull2B16 31 0 1) bench42) 31 = some (0x000F03E20BD908342793247E2C452FA8#128, 0x1004#64) := by decide +kernel
theorem test_pmullD1_41 :
    after (exec (.pmullD1 2 0 1) bench41) 2 = some (0x0382C3E3F0793C1E0F04010203000100#128, 0x1004#64) := by decide +kernel
/-- Destination = both sources (95 section 4.3). -/
theorem test_pmullD1_squares_itself :
    after (exec (.pmullD1 0 0 0) bench42) 0 = some (0x55545150454441401514111005040100#128, 0x1004#64) := by decide +kernel
theorem test_pmull2D2_41 :
    after (exec (.pmull2D2 3 0 1) bench41) 3 = some (0x05077DAA458DD1E947E0594F036EF108#128, 0x1004#64) := by decide +kernel
theorem test_pmull2D2_42 :
    after (exec (.pmull2D2 3 0 1) bench42) 3 = some (0x000EEF3C0FBAE088202ECF1C2F9AC0A8#128, 0x1004#64) := by decide +kernel

/-! Faults (95 section 4.4) and refusals -/

theorem test_trap_el1 :
    faultOf (exec (.pmullB8 2 0 1) (bench true (.trap .el1) 0x1000#64 0 0)) =
      some (.fpAccessTrap .el1 0x1000#64 0x0E21E002#32) := by decide
/-- UNDEFINED wins over the trap (R85). -/
theorem test_undefined_beats_trap :
    faultOf (exec (.pmullD1 2 0 1) (bench false (.trap .el2) 0x1000#64 0 0)) =
      some (.undefined 0x1000#64 0x0EE1E002#32) := by decide
theorem test_size10_faults :
    faultOf (exec (.undefinedSize10 1#1 2 0 1) (bench true (.trap .el3) 0x1000#64 0 0)) =
      some (.undefined 0x1000#64 0x4EA1E002#32) := by decide
/-- No step past the top of the address space (R28, D26). -/
theorem test_pc_at_top :
    refusalOf (exec (.pmullB8 2 0 1) (bench true .enabled 0xFFFFFFFFFFFFFFFC#64 0 0)) =
      some (.pcAtTop 0xFFFFFFFFFFFFFFFC#64) := by decide +kernel
/-- The last place an instruction completes. -/
theorem test_pc_below_top :
    after (exec (.pmullB8 2 0 1) (bench true .enabled 0xFFFFFFFFFFFFFFF8#64 0 0)) 2 =
      some (0#128, 0xFFFFFFFFFFFFFFFC#64) := by decide +kernel

/-! The step -/

theorem test_step_runs_placed_word :
    after (step (bench41.withFetchWord 32 0x0EE1E002)) 2 =
      some (0x0382C3E3F0793C1E0F04010203000100#128, 0x1004#64) := by decide +kernel
theorem test_step_misaligned :
    refusalOf (step (bench true .enabled 0x1002#64 0 0)) = some (.misalignedPc 0x1002#64) := by decide
theorem test_step_no_text :
    refusalOf (step (bench true .enabled 0x1000#64 0 0)) = some (.noProgramText 0x1000#64) := by decide
theorem test_step_off_pattern :
    refusalOf (step (bench41.withFetchWord 32 0x2E22E020)) = some (.notPmull 0x1000#64 0x2E22E020#32) := by decide +kernel
/-- The first instruction after reset. -/
theorem test_first_step_after_reset :
    (match step (State.reset.withFetchWord 32 0x4EE1E002) with
      | .next s => decide (s.pc = 4#64)
      | .fault _ => false
      | .refused _ => false) = true := by decide +kernel

/-! Assembler text (R64, 95 section 2.4, D25) -/

theorem test_assemble_lower_case :
    assembleText true "pmull2 v5.8h, v6.16b, v7.16b".toList = some 0x4E27E0C5#32 := by decide
theorem test_assemble_rejects :
    ["PMULL V0.8H, V1.16B, V2.16B", "PMULL2 V0.8H, V1.8B, V2.8B", "PMULL V0.1Q, V1.8B, V2.8B",
      "PMULL V0.8H, V1.8B, V2.16B", "PMULL V0.4S, V1.4H, V2.4H", "PMULL V32.8H, V0.8B, V0.8B"].map
      (fun t => assembleText true t.toList) = [none, none, none, none, none, none] := by decide +kernel
theorem test_disassemble_prints :
    (disassemble true 0x0EF1E134#32).map spellingText = some "PMULL V20.1Q, V9.1D, V17.1D".toList := by decide

/-! The usual check and exception entry (R84, R89) -/

/-- CPACR_EL1.FPEN = 01 traps at EL0 only. -/
theorem test_usual_check_fpen01 :
    [EL.el0, EL.el1].map (fun el => usualCheck Config.launchParams.platform
      { cpacrEl1 := 0x100000#64, cptrEl2 := 0, cptrEl3 := 0, securityState := .nonSecure, el := el }) =
      [.trap .el1, .enabled] := by decide
/-- CPTR_EL3.TFP traps to EL3 where nothing lower does. -/
theorem test_usual_check_tfp3 :
    usualCheck Config.launchParams.platform
      { cpacrEl1 := 0x300000#64, cptrEl2 := 0, cptrEl3 := 0x400#64, securityState := .nonSecure, el := .el0 } =
      .trap .el3 := by decide
/-- From EL0 in AArch64 to EL1: offset 0x400, syndrome 0x1FE00000. -/
theorem test_entry_from_el0 :
    (let s : State :=
      { State.reset with
        pstate := { State.reset.pstate with el := .el0 }
        bank1 := { State.reset.bank1 with vbar := 0x8000#64 } }
     let t := s.takeException (.fpAccessTrap .el1 0x1000#64 0x0E21E002#32)
     decide (t.pc = 0x8400#64 ∧ t.bank1.elr = 0x1000#64 ∧ t.bank1.esr = 0x1FE00000#64 ∧ t.pstate.el = .el1)) = true := by
  decide

/-- HCR_EL2.TGE in effect sends an Undefined exception of EL0 to EL2 (R82). -/
theorem test_undefined_target_tge :
    ({ State.reset with
        pstate := { State.reset.pstate with el := .el0 }
        params := { Config.launchParams with
          platform := { hcrE2H := false, hcrTGE := true, el2EnabledIn := [.secure], el3Implemented := true } } } :
      State).undefinedTarget = .el2 := by decide

/-- The TGE rerouting of R83: at EL0 a CPACR_EL1 trap goes to EL2 with EC 0b000000; a CPTR_EL2 trap is not rerouted, and
keeps EC 0b000111. -/
theorem test_trap_rerouted_tge :
    (let s : State :=
      { State.reset with
        pstate := { State.reset.pstate with el := .el0 }
        params := { Config.launchParams with
          platform := { hcrE2H := false, hcrTGE := true, el2EnabledIn := [.secure], el3Implemented := true } } }
     let t := s.takeException (.fpAccessTrap .el1 0x1000#64 0x0E21E002#32)
     let u := s.takeException (.fpAccessTrap .el2 0x1000#64 0x0E21E002#32)
     decide (t.bank2.esr = 0x02000000#64 ∧ t.pstate.el = .el2 ∧ u.bank2.esr = 0x1FE00000#64 ∧ u.pstate.el = .el2)) =
      true := by
  decide

/-! Witnesses: for each statement with hypotheses, inputs that meet all of them together -/

theorem witness_DecodeOfEncode : (Instr.undefinedSize11 1#1 31 0 31).wellFormed false = true := by decide
theorem witness_EncodeOfDecode : decode true 0x4EFFE3FF#32 = .ok (.pmull2D2 31 31 31) := rfl
theorem witness_DecodeStatements :
    decode true 0x0EF1E134#32 = .ok (.pmullD1 20 9 17) ∧ destOf (.pmullD1 20 9 17) = some 20 := ⟨rfl, rfl⟩
theorem witness_AccessorsReadTheseBits : (15 + 1) * 8 ≤ 128 ∧ (7 : Nat) < 8 ∧ (64 : Nat) ≤ 128 ∧ (63 : Nat) < 64 := by decide
theorem witness_SymbolTables : sizeOfTa true .q1 = some 0b11#2 ∧ taOfSize false 0b11#2 = none := by decide
theorem witness_PrintedTextReadsBack : (31 : Nat) < 32 ∧ (0 : Nat) < 32 := by decide
/-- The last element, its first and last bit, and the bits beside it. -/
theorem witness_ElemWrite : (7 + 1) * 16 ≤ 128 ∧ 112 < 128 ∧ 127 < 128 ∧ 111 < 128 := by decide
theorem witness_PolynomialMult : 15 < 8 + 8 ∧ (8 : Nat) = 8 ∧ 0 < 8 := by decide
theorem witness_ProductWithPowerOfX : 63 < 64 := by decide
theorem witness_SquareInterleavesZeros : 7 < 8 := by decide
theorem witness_ProductHasNoZeroDivisors : 0x80#8 ≠ 0#8 ∧ 0x01#8 ≠ 0#8 := by decide
theorem witness_IntegerProduct :
    (0 : Nat) < 7 ∧ 7 < 8 ∧ (0x81#8).getLsbD 0 = true ∧ (0x81#8).getLsbD 7 = true := by decide
theorem witness_VectorWrite : (64 : Nat) ≤ 128 ∧ (128 : Nat) ≤ 128 ∧ (30 : VReg) ≠ 31 ∧ 127 < 128 := by decide

/-- The four completion statements, SwappingSources, UpperForm (with itself) and the frame, at the last address from
which the pc can advance. -/
def benchTop : State := bench true .enabled 0xFFFFFFFFFFFFFFF8#64 3 5

theorem witness_Completes :
    benchTop.checkFPAdvSIMDEnabled64 = .enabled ∧ benchTop.pc.toNat + 4 < 2 ^ 64 ∧
      benchTop.params.havePmull64 = true := by decide
theorem witness_UpperForm :
    benchTop.v[(2 : VReg)].extractLsb' 0 64 = benchTop.v[(0 : VReg)].extractLsb' 64 64 ∧
      benchTop.v[(3 : VReg)].extractLsb' 0 64 = benchTop.v[(1 : VReg)].extractLsb' 64 64 := by decide
theorem witness_ResultTopBits_B8 : ∃ t, exec (.pmullB8 2 0 1) benchTop = .next t := ⟨_, rfl⟩
theorem witness_ResultTopBits_B16 : ∃ t, exec (.pmull2B16 2 0 1) benchTop = .next t := ⟨_, rfl⟩
theorem witness_ResultTopBits_D1 : ∃ t, exec (.pmullD1 2 0 1) benchTop = .next t := ⟨_, rfl⟩
theorem witness_ResultTopBits_D2 : ∃ t, exec (.pmull2D2 2 0 1) benchTop = .next t := ⟨_, rfl⟩
theorem witness_ExecFollows : decode bench41.params.havePmull64 0x0EE1E002#32 = .ok (.pmullD1 2 0 1) := rfl
/-- Two states that differ in Exception level and in the halves not read. -/
theorem witness_ResultDepends :
    let t : State :=
      { bench true .enabled 0x2000#64 (0xFF#64 ++ 3#64) (0xEE#64 ++ 5#64) with
        pstate := { State.reset.pstate with el := .el0 } }
    undefinedIn benchTop.params.havePmull64 (.pmullD1 2 0 1) = false ∧
      undefinedIn t.params.havePmull64 (.pmullD1 2 0 1) = false ∧ t.checkFPAdvSIMDEnabled64 = .enabled ∧
      t.pc.toNat + 4 < 2 ^ 64 ∧ benchTop.vpart 0 .lower = t.vpart 0 .lower ∧
      benchTop.vpart 1 .lower = t.vpart 1 .lower := by decide

/-- A word at an aligned pc, for the statements about the step. -/
def benchWith (havePmull64 : Bool) (w : Nat) : State := (bench havePmull64 .enabled 0x1000#64 3 5).withFetchWord 32 w

theorem witness_ReservedSizes :
    (benchWith true 0x4EA2E020).pc.toNat % 4 = 0 ∧
      fetchWord (benchWith true 0x4EA2E020).mem (benchWith true 0x4EA2E020).pc = some 0x4EA2E020#32 ∧
      0x4EA2E020#32 &&& 0xBFE0FC00#32 = 0x0EA0E000#32 ∧
      fetchWord (benchWith true 0x0E62E020).mem (benchWith true 0x0E62E020).pc = some 0x0E62E020#32 ∧
      0x0E62E020#32 &&& 0xBFE0FC00#32 = 0x0E60E000#32 := by decide
theorem witness_SixtyFourBitForms :
    (benchWith false 0x0EE2E020).pc.toNat % 4 = 0 ∧
      fetchWord (benchWith false 0x0EE2E020).mem (benchWith false 0x0EE2E020).pc = some 0x0EE2E020#32 ∧
      0x0EE2E020#32 &&& 0xBFE0FC00#32 = 0x0EE0E000#32 ∧ (benchWith false 0x0EE2E020).params.havePmull64 = false := by
  decide
theorem witness_TrapWhenCheckSaysSo :
    let s := bench true (.trap .el3) 0x1000#64 0 0
    undefinedIn s.params.havePmull64 (.pmull2D2 1 2 3) = false ∧ s.checkFPAdvSIMDEnabled64 = .trap .el3 := by decide
/-- Each of the three targets. -/
theorem witness_UsualCheckTraps :
    let p : Platform := { hcrE2H := false, hcrTGE := false, el2EnabledIn := [.nonSecure], el3Implemented := true }
    usualCheck p { cpacrEl1 := 0, cptrEl2 := 0, cptrEl3 := 0, securityState := .nonSecure, el := .el1 } = .trap .el1 ∧
      usualCheck p { cpacrEl1 := 0, cptrEl2 := 0x400#64, cptrEl3 := 0, securityState := .nonSecure, el := .el2 } =
        .trap .el2 ∧
      usualCheck p { cpacrEl1 := 0, cptrEl2 := 0, cptrEl3 := 0x400#64, securityState := .secure, el := .el3 } =
        .trap .el3 := by decide
/-- With E2H: FPEN 01 of CPTR_EL2 at EL0 with TGE (which also sets CPACR_EL1 aside), the same at EL1, and FPEN 10. -/
theorem witness_UsualCheckTraps_e2h :
    let p : Platform := { hcrE2H := true, hcrTGE := true, el2EnabledIn := [.nonSecure], el3Implemented := true }
    usualCheck p { cpacrEl1 := 0, cptrEl2 := 0x100000#64, cptrEl3 := 0, securityState := .nonSecure, el := .el0 } =
        .trap .el2 ∧
      usualCheck p
        { cpacrEl1 := 0x300000#64, cptrEl2 := 0x100000#64, cptrEl3 := 0, securityState := .nonSecure, el := .el1 } =
        .enabled ∧
      usualCheck p { cpacrEl1 := 0, cptrEl2 := 0x200000#64, cptrEl3 := 0, securityState := .nonSecure, el := .el2 } =
        .trap .el2 := by decide
theorem witness_UsualCheckEnabling :
    fpenOf 0x300000#64 = 0b11#2 ∧ tfpOf 0#64 = false := by decide
/-- A state at a given level, EL2 enabled and TGE as given. -/
def benchAt (el : EL) (tge : Bool) : State :=
  { bench41 with
    pstate := { State.reset.pstate with el := el }
    params := { Config.launchParams with
      platform := { hcrE2H := false, hcrTGE := tge, el2EnabledIn := [.secure], el3Implemented := true } } }
/-- A state in which only CPTR_EL2.TFP is set, EL2 enabled, with the given check. -/
def benchTfp2 (check : FpsimdCheck) : State :=
  { benchAt .el0 false with
    cpacrEl1 := 0x300000#64
    cptrEl2 := 0x400#64
    cptrEl3 := 0
    params := { (benchAt .el0 false).params with fpsimdCheck := check } }
/-- The registers are told apart; the first of two rows with the state's inputs counts; a table without them. -/
theorem witness_EnableCheck :
    let key := inputsOf (benchTfp2 .usual)
    (benchTfp2 .usual).checkFPAdvSIMDEnabled64 = .trap .el2 ∧
      ({ benchTfp2 .usual with cptrEl2 := 0, cptrEl3 := 0x400#64 } : State).checkFPAdvSIMDEnabled64 = .trap .el3 ∧
      (benchTfp2 (.table [({ key with el := .el1 }, .trap .el1), (key, .trap .el3), (key, .trap .el2)]
        .enabled)).checkFPAdvSIMDEnabled64 = .trap .el3 ∧
      (benchTfp2 (.table [({ key with el := .el1 }, .trap .el1)] .enabled)).checkFPAdvSIMDEnabled64 = .enabled := by
  decide
/-- Every case of where an Undefined exception goes (R82), with the two syndromes. -/
theorem witness_ExceptionEntry :
    let f : Fault := .undefined 0x1000#64 0x0E61E002#32
    [benchAt .el0 false, benchAt .el0 true, benchAt .el1 true, benchAt .el2 true, benchAt .el3 true].map
        (fun s => s.entryTarget f) = [.el1, .el2, .el1, .el2, .el3] ∧
      (benchAt .el0 true).entrySyndrome f = 0x02000000#64 ∧
      (benchAt .el0 false).entrySyndrome (.fpAccessTrap .el1 0x1000#64 0x0E21E002#32) = 0x1FE00000#64 := by decide
theorem witness_ReturnReexecutes_undefined :
    exec (.undefinedSize01 0#1 2 0 1) bench41 = .fault (.undefined 0x1000#64 0x0E61E002#32) ∧
      undefinedIn bench41.params.havePmull64 (.undefinedSize01 0#1 2 0 1) = true := ⟨rfl, rfl⟩
/-- CPACR_EL1 = 0 traps at EL1; CPACR_EL1.FPEN = 11 enables. -/
def benchLazy : State :=
  { bench true .enabled 0x1000#64 3 5 with
    pstate := { State.reset.pstate with el := .el1 }
    cpacrEl1 := 0
    cptrEl2 := 0
    cptrEl3 := 0
    params := { Config.launchParams with fpsimdCheck := .usual } }
theorem witness_ReturnReexecutes_trap :
    let f : Fault := .fpAccessTrap .el1 0x1000#64 0x0E21E002#32
    let u : State :=
      { (benchLazy.takeException f).exceptionReturn (benchLazy.entryTarget f) with
        cpacrEl1 := 0x300000#64, cptrEl2 := 0, cptrEl3 := 0 }
    faultOf (exec (.pmullB8 2 0 1) benchLazy) = some f ∧
      undefinedIn benchLazy.params.havePmull64 (.pmullB8 2 0 1) = false ∧ u.checkFPAdvSIMDEnabled64 = .enabled ∧
      benchLazy.pc.toNat + 4 < 2 ^ 64 := by decide
theorem witness_StepRuns :
    let s := benchWith true 0x4E27E0C5
    s.pc.toNat % 4 = 0 ∧ s.mem.read s.pc.toNat = some 0xC5#8 ∧ s.mem.read (s.pc + 1#64).toNat = some 0xE0#8 ∧
      s.mem.read (s.pc + 2#64).toNat = some 0x27#8 ∧ s.mem.read (s.pc + 3#64).toNat = some 0x4E#8 ∧
      decoded (decode s.params.havePmull64 (0x4E#8 ++ 0x27#8 ++ 0xE0#8 ++ 0xC5#8)) = some (.pmull2B16 5 6 7) := by decide
theorem witness_StepRefusesOtherWords :
    let s := benchWith true 0x0E22E420
    s.pc.toNat % 4 = 0 ∧ fetchWord s.mem s.pc = some 0x0E22E420#32 ∧
      0x0E22E420#32 &&& 0xBF20FC00#32 ≠ 0x0E20E000#32 := by decide
/-- A misaligned pc; and an aligned one where only the last byte of the word is missing. -/
theorem witness_StepNeeds :
    (bench true .enabled 0x1001#64 0 0).pc.toNat % 4 ≠ 0 ∧
      (let s : State :=
        { bench true .enabled 0x1000#64 0 0 with mem := [(0x1000, 0x20#8), (0x1001, 0xE0#8), (0x1002, 0x22#8)] }
       s.pc.toNat % 4 = 0 ∧ s.mem.read (s.pc + BitVec.ofNat 64 3).toNat = none) := by decide
theorem witness_PlacedInstructionRuns :
    bench41.pc.toNat % 4 = 0 ∧ (Instr.pmullD1 2 0 1).wellFormed bench41.params.havePmull64 = true := by decide

/-- A state that meets the invariant and steps, for the invariant and the run. -/
def benchStep : State := State.reset.withFetchWord 32 0x0E21E002

theorem witness_StepKeepsInvariant : benchStep.Inv := by
  unfold State.Inv State.idDisclosesFeatures
  decide
/-- The three readings of the field AES, and 0b0111, which no implementation has (R33). -/
theorem witness_AesField :
    ({ benchStep with idAa64isar0El1 := 0x10#64, params := { Config.launchParams with havePmull64 := false } } :
        State).Inv ∧
      ({ benchStep with
          idAa64isar0El1 := 0#64
          params := { Config.launchParams with havePmull64 := false, haveAes := false } } : State).Inv ∧
      ¬ ({ benchStep with idAa64isar0El1 := 0x70#64, params := { Config.launchParams with havePmull64 := false } } :
        State).Inv := by
  unfold State.Inv State.idDisclosesFeatures
  decide
theorem witness_step_next : ∃ t, step benchStep = .next t := ⟨_, rfl⟩
theorem witness_OnlyDestination_fault :
    exec (.undefinedSize10 0#1 2 0 1) bench41 = .fault (.undefined 0x1000#64 0x0EA1E002#32) := rfl
theorem witness_OnlyDestination : ∃ t, exec (.pmull2D2 31 0 1) benchStep = .next t := ⟨_, rfl⟩
theorem witness_RunKeepsText : ∃ t, Sys2Proof.core.run 1 benchStep = .next t := ⟨_, rfl⟩

end Sys2Proof.Tests
end

/-! PROOFS. The bits that the accessors and the element write give (R10, R11, R24, R25). -/

section

namespace Sys2Proof.Machine

/-- R10: bit `j` of an element is bit `e * size + j` of the vector. -/
theorem getLsbD_elem {N : Nat} (vector : BitVec N) (e : Nat) {size j : Nat} (hj : j < size) :
    (elem vector e size).getLsbD j = vector.getLsbD (e * size + j) := by
  simp [elem, hj]

/-- R24: bit `j` of a register read at `width` is bit `j` of the register. -/
theorem State.getLsbD_readV (s : State) (n : VReg) {width j : Nat} (hj : j < width) :
    (s.readV n width).getLsbD j = s.v[n].getLsbD j := by
  simp [State.readV, hj]

/-- R25: the lower half is the bits from 0 up. -/
theorem State.getLsbD_vpart_lower (s : State) (n : VReg) {j : Nat} (hj : j < 64) :
    (s.vpart n .lower).getLsbD j = s.v[n].getLsbD j := by
  simp [State.vpart, hj]

/-- R25: the upper half is the bits from 64 up. -/
theorem State.getLsbD_vpart_upper (s : State) (n : VReg) {j : Nat} (hj : j < 64) :
    (s.vpart n .upper).getLsbD j = s.v[n].getLsbD (64 + j) := by
  simp [State.vpart, hj]

/-- The mask of an element, shifted to its place, has a 1 exactly at the bits of the element. -/
theorem getLsbD_elemMask {N size : Nat} (e : Nat) {j : Nat} (hj : j < N) :
    ((BitVec.allOnes size).setWidth N <<< (e * size)).getLsbD j =
      decide (e * size ≤ j ∧ j < (e + 1) * size) := by
  have hlast : (e + 1) * size = e * size + size := Nat.succ_mul e size
  rw [BitVec.getLsbD_shiftLeft, BitVec.getLsbD_setWidth, BitVec.getLsbD_allOnes, Bool.eq_iff_iff]
  simp only [Bool.and_eq_true, Bool.not_eq_true', decide_eq_true_eq, decide_eq_false_iff_not]
  omega

/-- A value shifted to the place of its element reads there as the value, and as 0 elsewhere. -/
theorem getLsbD_elemValue {N size : Nat} (value : BitVec size) (e : Nat) {j : Nat} (hj : j < N) :
    (value.setWidth N <<< (e * size)).getLsbD j =
      if e * size ≤ j ∧ j < (e + 1) * size then value.getLsbD (j - e * size) else false := by
  have hlast : (e + 1) * size = e * size + size := Nat.succ_mul e size
  rw [BitVec.getLsbD_shiftLeft, BitVec.getLsbD_setWidth]
  split
  case isTrue hin =>
    have hnlt : ¬ j < e * size := by omega
    have hlt : j - e * size < N := by omega
    simp [hj, hnlt, hlt]
  case isFalse hout =>
    by_cases hlow : j < e * size
    · simp [hlow]
    · simp [value.getLsbD_of_ge (j - e * size) (by omega)]

/-- R11: an element write gives the value's bits inside the element and keeps the vector's outside it. -/
theorem getLsbD_setElem {N size : Nat} (vector : BitVec N) (e : Nat) (value : BitVec size) {j : Nat} (hj : j < N) :
    (setElem vector e value).getLsbD j =
      if e * size ≤ j ∧ j < (e + 1) * size then value.getLsbD (j - e * size) else vector.getLsbD j := by
  rw [setElem, BitVec.getLsbD_or, BitVec.getLsbD_and, BitVec.getLsbD_not, getLsbD_elemMask e hj,
    getLsbD_elemValue value e hj]
  split <;> rename_i h <;> simp [h, hj]

/-- Settles O20: each accessor is one bit range of what it reads. -/
theorem accessorsReadTheseBits : Obligations.AccessorsReadTheseBits := by
  refine ⟨?elem, ?readV, ?vpart⟩
  case elem => exact fun _ vector e _ _ _ hj => getLsbD_elem vector e hj
  case readV => exact fun s n _ _ _ hj => s.getLsbD_readV n hj
  case vpart => exact fun s n _ hj => ⟨s.getLsbD_vpart_lower n hj, s.getLsbD_vpart_upper n hj⟩

/-- Settles O11: the mask clears the element's bits, and the shifted value fills them and no other. -/
theorem elemWriteReplacesOneElement : Obligations.ElemWriteReplacesOneElement :=
  fun _ _ vector e value _ _ hj => getLsbD_setElem vector e value hj

end Sys2Proof.Machine

end

/-! PROOFS. `PolynomialMult` is the product of polynomials over the integers modulo 2, and what follows for each bit
(R13, R75 laws 2 and 11). -/

section

namespace Sys2Proof.Machine

open Polynomial

/-- The coefficients of the polynomial a bitstring stands for are its bits. -/
theorem coeff_polyOf {n : Nat} (a : BitVec n) (i : Nat) : (polyOf a).coeff i = if a.getLsbD i then 1 else 0 := by
  have hterm : ∀ j, (if a.getLsbD j then (X ^ j : (ZMod 2)[X]) else 0).coeff i =
      if i = j then (if a.getLsbD j then 1 else 0) else 0 := by
    intro j
    by_cases hij : i = j <;> split <;> simp [coeff_X_pow, hij]
  simp only [polyOf, finsetSum_coeff, hterm, Finset.sum_ite_eq, Finset.mem_range]
  by_cases hi : i < n
  · simp [hi]
  · simp [hi, a.getLsbD_of_ge i (by omega)]

/-- The zero bitstring stands for the zero polynomial. -/
theorem polyOf_zero (n : Nat) : polyOf 0#n = 0 := by
  ext i
  simp [coeff_polyOf]

/-- Exclusive or is addition modulo 2 of the coefficients. -/
theorem polyOf_xor {n : Nat} (a b : BitVec n) : polyOf (a ^^^ b) = polyOf a + polyOf b := by
  ext i
  rw [coeff_add, coeff_polyOf, coeff_polyOf, coeff_polyOf, BitVec.getLsbD_xor]
  cases a.getLsbD i <;> cases b.getLsbD i <;> decide

/-- A bitstring widened enough to lose no bit and shifted by `k` stands for its polynomial times `x^k`. -/
theorem polyOf_setWidth_shiftLeft {n w k : Nat} (a : BitVec n) (h : k + n ≤ w) :
    polyOf (a.setWidth w <<< k) = X ^ k * polyOf a := by
  ext i
  rw [coeff_X_pow_mul', coeff_polyOf, coeff_polyOf, BitVec.getLsbD_shiftLeft, BitVec.getLsbD_setWidth]
  by_cases hk : k ≤ i
  · by_cases hi : i - k < n
    · simp [hk, show i < w by omega, show i - k < w by omega]
    · simp [hk, a.getLsbD_of_ge (i - k) (by omega)]
  · simp [hk, show i < k by omega]

/-- After `k` iterations the loop of R13 has multiplied by the lowest `k` coefficients of `op1`. -/
theorem polyOf_polynomialMultUpTo {M N : Nat} (op1 : BitVec M) (op2 : BitVec N) :
    ∀ k ≤ M, polyOf (polynomialMultUpTo op1 op2 k) =
      (∑ i ∈ Finset.range k, if op1.getLsbD i then X ^ i else 0) * polyOf op2
  | 0, _ => by simpa [polynomialMultUpTo] using polyOf_zero (M + N)
  | k + 1, hk => by
    have ih := polyOf_polynomialMultUpTo op1 op2 k (by omega)
    rw [Finset.sum_range_succ, add_mul, ← ih, polynomialMultUpTo]
    split
    · rw [polyOf_xor, polyOf_setWidth_shiftLeft op2 (by omega)]
    · simp

/-- Settles O13: the loop adds one partial product for each coefficient of the first operand. -/
theorem polynomialMultIsThePolynomialProduct : Obligations.PolynomialMultIsThePolynomialProduct :=
  fun M _ op1 op2 => polyOf_polynomialMultUpTo op1 op2 M le_rfl

/-- The recursion of the model is the page's `for` loop over `i = 0 .. k-1`. -/
theorem polynomialMultUpTo_eq_foldl {M N : Nat} (op1 : BitVec M) (op2 : BitVec N) (k : Nat) :
    polynomialMultUpTo op1 op2 k =
      (List.range k).foldl
        (fun result i => if op1.getLsbD i then result ^^^ (op2.setWidth (M + N) <<< i) else result) 0#(M + N) := by
  induction k with
  | zero => rfl
  | succ k ih => rw [List.range_succ, List.foldl_append, ← ih]; rfl

/-- The pairs of set bits of two operands whose positions add up to `k`. -/
def bitPairs {M N : Nat} (op1 : BitVec M) (op2 : BitVec N) (k : Nat) : Finset (Nat × Nat) :=
  (Finset.range M ×ˢ Finset.range N).filter
    (fun p => p.1 + p.2 = k ∧ op1.getLsbD p.1 = true ∧ op2.getLsbD p.2 = true)

/-- A coefficient of the product of two polynomials counts the pairs of set bits, modulo 2. -/
theorem coeff_polyOf_mul_polyOf {M N : Nat} (op1 : BitVec M) (op2 : BitVec N) (k : Nat) :
    (polyOf op1 * polyOf op2).coeff k = ((bitPairs op1 op2 k).card : ZMod 2) := by
  have hterm : ∀ p : Nat × Nat,
      ((if op1.getLsbD p.1 then (X ^ p.1 : (ZMod 2)[X]) else 0) *
        (if op2.getLsbD p.2 then X ^ p.2 else 0)).coeff k =
      if p.1 + p.2 = k ∧ op1.getLsbD p.1 = true ∧ op2.getLsbD p.2 = true then 1 else 0 := by
    intro p
    cases op1.getLsbD p.1 <;> cases op2.getLsbD p.2 <;> simp [← pow_add, coeff_X_pow, eq_comm]
  rw [polyOf, polyOf, Finset.sum_mul_sum, ← Finset.sum_product', finsetSum_coeff]
  simp only [hterm]
  exact Finset.sum_boole _ _

/-- Bit `k` of the product is the parity of the number of pairs of set bits at positions that add up to `k`. -/
theorem getLsbD_polynomialMult {M N : Nat} (op1 : BitVec M) (op2 : BitVec N) (k : Nat) :
    (polynomialMult op1 op2).getLsbD k = decide ((bitPairs op1 op2 k).card % 2 = 1) := by
  have hcoeff : (if (polynomialMult op1 op2).getLsbD k then (1 : ZMod 2) else 0) =
      ((bitPairs op1 op2 k).card : ZMod 2) := by
    rw [← coeff_polyOf, polynomialMultIsThePolynomialProduct, coeff_polyOf_mul_polyOf]
  rw [Bool.eq_iff_iff, decide_eq_true_eq, ← Nat.odd_iff, ← ZMod.natCast_eq_one_iff_odd, ← hcoeff]
  simp

/-- The highest bits of the operands meet at position `M + N - 2`: no pair reaches the top bit of the product. -/
theorem bitPairs_top {M N : Nat} (op1 : BitVec M) (op2 : BitVec N) : bitPairs op1 op2 (M + N - 1) = ∅ := by
  simp only [bitPairs, Finset.filter_eq_empty_iff, Finset.mem_product, Finset.mem_range]
  omega

/-- Settles O12: the loop is the model's recursion, a bit is a coefficient of the polynomial product, and the sum for the
top bit is empty. -/
theorem polynomialMultIsTheCarrylessSum : Obligations.PolynomialMultIsTheCarrylessSum := by
  intro M N op1 op2
  refine ⟨?loop, ?bit, ?top⟩
  case loop => exact polynomialMultUpTo_eq_foldl op1 op2 M
  case bit => exact fun k _ => getLsbD_polynomialMult op1 op2 k
  case top =>
    intro _ _
    rw [getLsbD_polynomialMult, bitPairs_top]
    rfl

end Sys2Proof.Machine

end

/-! PROOFS. What an instruction answers in each of its cases (R18, R28, R74, R85). -/

section

namespace Sys2Proof.Machine

/-- Where decode ends in UNDEFINED the outcome is that fault, whatever the enable check says (R85). -/
theorem exec_of_undefined {i : Instr} {s : State} (h : undefinedIn s.params.havePmull64 i = true) :
    exec i s = .fault (.undefined s.pc (encode i)) := by
  cases i with
  | pmullB8 d n m => cases h
  | pmull2B16 d n m => cases h
  | pmullD1 d n m => exact polynomialMultiplyLong64_of_not_have (by simpa [undefinedIn] using h) _ _ d n m
  | pmull2D2 d n m => exact polynomialMultiplyLong64_of_not_have (by simpa [undefinedIn] using h) _ _ d n m
  | undefinedSize01 q d n m => rfl
  | undefinedSize10 q d n m => rfl
  | undefinedSize11 q d n m => rfl

/-- An instruction that is not UNDEFINED is the shared operation of R67 on its own word. -/
theorem exec_of_defined {i : Instr} {s : State} (h : undefinedIn s.params.havePmull64 i = false) :
    ∃ (part : Half) (esize elements : Nat) (d n m : VReg),
      exec i s = polynomialMultiplyLong (encode i) part esize elements d n m s := by
  cases i with
  | pmullB8 d n m => exact ⟨_, _, _, d, n, m, rfl⟩
  | pmull2B16 d n m => exact ⟨_, _, _, d, n, m, rfl⟩
  | pmullD1 d n m =>
    exact ⟨_, _, _, d, n, m, polynomialMultiplyLong64_of_have (by simpa [undefinedIn] using h) _ _ d n m⟩
  | pmull2D2 d n m =>
    exact ⟨_, _, _, d, n, m, polynomialMultiplyLong64_of_have (by simpa [undefinedIn] using h) _ _ d n m⟩
  | undefinedSize01 q d n m => cases h
  | undefinedSize10 q d n m => cases h
  | undefinedSize11 q d n m => cases h

/-- Where the instruction is not UNDEFINED and the check answers `Trap`, the outcome is that fault (R83). -/
theorem exec_of_trap {i : Instr} {s : State} {target : HandlerEL} (h : undefinedIn s.params.havePmull64 i = false)
    (hc : s.checkFPAdvSIMDEnabled64 = .trap target) : exec i s = .fault (.fpAccessTrap target s.pc (encode i)) := by
  obtain ⟨part, esize, elements, d, n, m, he⟩ := exec_of_defined h
  rw [he, polynomialMultiplyLong_of_trap hc]

/-- Where the instruction is not UNDEFINED and access is enabled, it writes one register and advances. -/
theorem exec_of_enabled {i : Instr} {s : State} (h : undefinedIn s.params.havePmull64 i = false)
    (hc : s.checkFPAdvSIMDEnabled64 = .enabled) : ∃ (d : VReg) (r : BitVec 128), exec i s = (s.writeV d r).advance := by
  obtain ⟨part, esize, elements, d, n, m, he⟩ := exec_of_defined h
  exact ⟨d, _, he.trans (polynomialMultiplyLong_of_enabled hc ..)⟩

/-- A completed instruction: one register written and `pc + 4`, where that stays inside the address space (R28). -/
theorem exec_of_enabled_of_lt {i : Instr} {s : State} (h : undefinedIn s.params.havePmull64 i = false)
    (hc : s.checkFPAdvSIMDEnabled64 = .enabled) (hlt : s.pc.toNat + 4 < 2 ^ 64) :
    ∃ (d : VReg) (r : BitVec 128), exec i s = .next ((s.writeV d r).setPc (s.pc + 4#64)) := by
  obtain ⟨d, r, he⟩ := exec_of_enabled h hc
  exact ⟨d, r, he.trans (State.advance_of_lt (s := s.writeV d r) hlt)⟩

/-- At the top of the address space an enabled instruction is refused (D26). -/
theorem exec_of_enabled_of_not_lt {i : Instr} {s : State} (h : undefinedIn s.params.havePmull64 i = false)
    (hc : s.checkFPAdvSIMDEnabled64 = .enabled) (hlt : ¬ s.pc.toNat + 4 < 2 ^ 64) :
    exec i s = .refused (.pcAtTop s.pc) := by
  obtain ⟨d, r, he⟩ := exec_of_enabled h hc
  exact he.trans (State.advance_of_not_lt (s := s.writeV d r) hlt)

/-- Settles O39: the four conditions exclude each other and leave no case out, and each has its own outcome. -/
theorem outcomesExactly : Obligations.OutcomesExactly := by
  intro i s
  cases hu : undefinedIn s.params.havePmull64 i with
  | true => simp [exec_of_undefined hu]
  | false =>
    cases hc : s.checkFPAdvSIMDEnabled64 with
    | trap target => simp [exec_of_trap hu hc]
    | enabled =>
      by_cases hlt : s.pc.toNat + 4 < 2 ^ 64
      · obtain ⟨d, r, he⟩ := exec_of_enabled_of_lt hu hc hlt
        simp [he, hlt, -Nat.reducePow]
      · simp [exec_of_enabled_of_not_lt hu hc hlt, hlt, eq_comm, -Nat.reducePow]

end Sys2Proof.Machine

end

/-! PROOFS. The enable check and the step (R16, R18, R39). -/

section

namespace Sys2Proof.Machine

/-- Rows of other inputs are passed over. -/
theorem tableCheck_append_of_ne {otherwise : Verdict} {c : CheckInputs} (rest : List (CheckInputs × Verdict)) :
    ∀ {before : List (CheckInputs × Verdict)}, (∀ row ∈ before, row.1 ≠ c) →
      tableCheck otherwise (before ++ rest) c = tableCheck otherwise rest c
  | [], _ => rfl
  | (_, _) :: _, h => by
    obtain ⟨hhead, htail⟩ := List.forall_mem_cons.mp h
    rw [List.cons_append, tableCheck_cons_other hhead, tableCheck_append_of_ne rest htail]

/-- With the usual algorithm as the parameter, the verdict is that algorithm's on the five inputs. -/
theorem State.checkFPAdvSIMDEnabled64_of_usual {s : State} (h : s.params.fpsimdCheck = .usual) :
    s.checkFPAdvSIMDEnabled64 = usualCheck s.params.platform (inputsOf s) := by
  simp [State.checkFPAdvSIMDEnabled64, fpsimdCheck, h, State.checkInputs, inputsOf]

/-- With a table as the parameter, the verdict is the table's on the five inputs. -/
theorem State.checkFPAdvSIMDEnabled64_of_table {s : State} {rows : List (CheckInputs × Verdict)} {otherwise : Verdict}
    (h : s.params.fpsimdCheck = .table rows otherwise) :
    s.checkFPAdvSIMDEnabled64 = tableCheck otherwise rows (inputsOf s) := by
  simp [State.checkFPAdvSIMDEnabled64, fpsimdCheck, h, State.checkInputs, inputsOf]

/-- Settles O55: the check is the parameter on the state's five inputs, and a table is searched from its first row. -/
theorem enableCheckIsTheParameterOnFiveInputs : Obligations.EnableCheckIsTheParameterOnFiveInputs := by
  refine ⟨?usual, ?table, ?congr⟩
  case usual => exact fun s h => State.checkFPAdvSIMDEnabled64_of_usual h
  case table =>
    intro s rows otherwise h
    rw [State.checkFPAdvSIMDEnabled64_of_table h]
    constructor
    · rintro before verdict after rfl hne
      rw [tableCheck_append_of_ne _ hne, tableCheck_cons_self]
    · intro hne
      simpa using tableCheck_append_of_ne (otherwise := otherwise) [] hne
  case congr =>
    intro s t hp hcpacr hcptr2 hcptr3 hss hel
    exact State.checkFPAdvSIMDEnabled64_congr hp (by simp [State.checkInputs, hcpacr, hcptr2, hcptr3, hss, hel])

/-- R39: the word at `pc` is its four bytes, the one at the lowest address the least significant. -/
theorem fetchWord_of_read {m : Memory} {pc : BitVec 64} {b0 b1 b2 b3 : Byte} (h0 : m.read pc.toNat = some b0)
    (h1 : m.read (pc + 1#64).toNat = some b1) (h2 : m.read (pc + 2#64).toNat = some b2)
    (h3 : m.read (pc + 3#64).toNat = some b3) : fetchWord m pc = some (b3 ++ b2 ++ b1 ++ b0) := by
  have hb0 : m.read (byteAddr pc 0) = some b0 := by simpa [byteAddr] using h0
  have hb1 : m.read (byteAddr pc 1) = some b1 := h1
  have hb2 : m.read (byteAddr pc 2) = some b2 := h2
  have hb3 : m.read (byteAddr pc 3) = some b3 := h3
  simp [fetchWord, hb0, hb1, hb2, hb3, wordOfBytes]

/-- Fetching at an aligned pc gives the instruction that the word there decodes to. -/
theorem State.fetchInstr_of_decode {s : State} {w : Word} {i : Instr} (ha : s.pc.toNat % 4 = 0)
    (hw : fetchWord s.mem s.pc = some w) (hd : decode s.params.havePmull64 w = .ok i) : s.fetchInstr = .ok i := by
  simp [State.fetchInstr, ha, hw, hd]

/-- A step executes the instruction that it fetches. -/
theorem step_of_fetchInstr {s : State} {i : Instr} (h : s.fetchInstr = .ok i) : step s = exec i s := by
  simp [step, h]

/-- Settles O45: the bytes make the word, the word the instruction, and the step is its execution. -/
theorem stepRunsTheDecodedInstruction : Obligations.StepRunsTheDecodedInstruction :=
  fun _ _ _ _ _ _ ha h0 h1 h2 h3 hd =>
    step_of_fetchInstr (State.fetchInstr_of_decode ha (fetchWord_of_read h0 h1 h2 h3) hd)

end Sys2Proof.Machine

end

/-! PROOFS. What one instruction and one run can change: the frame, the value written, the invariant (R23, R33, R35,
R36). -/

section

namespace Sys2Proof.Machine

/-! A register write and the advance of the pc, and what they leave (R23, R28, R35) -/

/-- R23: bit `j` of the register written is the value's, and 0 above the value's width. -/
theorem State.getLsbD_writeV_self {w : Nat} (s : State) (n : VReg) (value : BitVec w) {j : Nat} (hj : j < 128) :
    (s.writeV n value).v[n].getLsbD j = if j < w then value.getLsbD j else false := by
  rw [State.writeV_v_self, BitVec.getLsbD_setWidth]
  split
  case isTrue => simp [hj]
  case isFalse hge => simp [value.getLsbD_of_ge j (by omega)]

/-- A register write changes no state outside the registers. -/
theorem State.sameOutsideVAndPc_writeV {w : Nat} (s : State) (d : VReg) (r : BitVec w) :
    SameOutsideVAndPc s (s.writeV d r) := by
  simp [SameOutsideVAndPc]

/-- Writing a register and moving the pc changes no other state. -/
theorem State.sameOutsideVAndPc_writeV_setPc {w : Nat} (s : State) (d : VReg) (r : BitVec w) (pc : BitVec 64) :
    SameOutsideVAndPc s ((s.writeV d r).setPc pc) := by
  simp [SameOutsideVAndPc]

/-- Settles O21: the value is widened with zeros to the whole register, and one place of the register file changes. -/
theorem vectorWriteReplacesOneRegister : Obligations.VectorWriteReplacesOneRegister := by
  intro s n k width value _
  refine ⟨?written, ?other, s.sameOutsideVAndPc_writeV n value, rfl⟩
  case written => exact fun j hj => s.getLsbD_writeV_self n value hj
  case other => exact s.writeV_v_other n k value

/-! Which register an instruction writes, and from what (R26, R67) -/

/-- An instruction that is not UNDEFINED somewhere has a destination, and is in every state where it is defined the
shared operation of R67 on the half and the sources that it names. -/
theorem exec_eq_polynomialMultiplyLong {i : Instr} {havePmull64 : Bool} (h : undefinedIn havePmull64 i = false) :
    ∃ (d : VReg) (esize elements : Nat), destOf i = some d ∧
      ∀ s : State, undefinedIn s.params.havePmull64 i = false →
        exec i s = polynomialMultiplyLong (encode i) (halfOf i) esize elements d (sourcesOf i).1 (sourcesOf i).2 s := by
  cases i with
  | pmullB8 d n m => exact ⟨d, _, _, rfl, fun _ _ => rfl⟩
  | pmull2B16 d n m => exact ⟨d, _, _, rfl, fun _ _ => rfl⟩
  | pmullD1 d n m =>
    exact ⟨d, _, _, rfl, fun s hs => polynomialMultiplyLong64_of_have (by simpa [undefinedIn] using hs) _ _ d n m⟩
  | pmull2D2 d n m =>
    exact ⟨d, _, _, rfl, fun s hs => polynomialMultiplyLong64_of_have (by simpa [undefinedIn] using hs) _ _ d n m⟩
  | undefinedSize01 q d n m => cases h
  | undefinedSize10 q d n m => cases h
  | undefinedSize11 q d n m => cases h

/-- The value written is a function of the two halves read. -/
theorem lanesOf_congr {part : Half} {n m : VReg} {s t : State} (hn : s.vpart n part = t.vpart n part)
    (hm : s.vpart m part = t.vpart m part) (esize elements : Nat) :
    lanesOf part esize elements n m s = lanesOf part esize elements n m t := by
  rw [lanesOf, lanesOf, hn, hm]

/-- The shared operation completes where access is enabled and the pc can advance. -/
theorem polynomialMultiplyLong_of_enabled_of_lt {s : State} (hc : s.checkFPAdvSIMDEnabled64 = .enabled)
    (hlt : s.pc.toNat + 4 < 2 ^ 64) (word : Word) (part : Half) (esize elements : Nat) (d n m : VReg) :
    polynomialMultiplyLong word part esize elements d n m s =
      .next ((s.writeV d (lanesOf part esize elements n m s)).setPc (s.pc + 4#64)) :=
  (polynomialMultiplyLong_of_enabled hc word part esize elements d n m).trans
    (State.advance_of_lt (s := s.writeV d (lanesOf part esize elements n m s)) hlt)

/-- Settles O32: in both states the instruction is the same shared operation, and the lanes are a function of the
halves. -/
theorem resultDependsOnTheHalvesReadAlone : Obligations.ResultDependsOnTheHalvesReadAlone := by
  intro i s t hus hut hcs hct hls hlt hn hm
  obtain ⟨d, esize, elements, hd, he⟩ := exec_eq_polynomialMultiplyLong hus
  refine ⟨d, lanesOf (halfOf i) esize elements (sourcesOf i).1 (sourcesOf i).2 s, hd, ?left, ?right⟩
  case left => rw [he s hus, polynomialMultiplyLong_of_enabled_of_lt hcs hls]
  case right => rw [he t hut, polynomialMultiplyLong_of_enabled_of_lt hct hlt, lanesOf_congr hn hm]

/-! The frame of an instruction (R28, R35, R87) -/

/-- Where an instruction answers a next state, it is not UNDEFINED. -/
theorem undefinedIn_of_exec_next {i : Instr} {s t : State} (h : exec i s = .next t) :
    undefinedIn s.params.havePmull64 i = false :=
  ((outcomesExactly i s).2.2.1.mp ⟨t, h⟩).1

/-- The next state of an instruction is one write, to the destination that the instruction names, and `pc + 4`. -/
theorem exec_next_destOf {i : Instr} {s t : State} (h : exec i s = .next t) :
    ∃ (d : VReg) (r : BitVec 128), destOf i = some d ∧ s.pc.toNat + 4 < 2 ^ 64 ∧
      t = (s.writeV d r).setPc (s.pc + 4#64) := by
  have hu := undefinedIn_of_exec_next h
  obtain ⟨d, esize, elements, hd, he⟩ := exec_eq_polynomialMultiplyLong hu
  obtain ⟨-, hlt, ht⟩ := polynomialMultiplyLong_next ((he s hu).symm.trans h)
  exact ⟨d, _, hd, hlt, ht⟩

/-- Completing raises no fault. -/
theorem State.advance_ne_fault (s : State) (f : Fault) : s.advance ≠ .fault f := by
  by_cases hlt : s.pc.toNat + 4 < 2 ^ 64
  · simp [State.advance_of_lt hlt]
  · simp [State.advance_of_not_lt hlt]

/-- The record of a fault holds the pc of its instruction (R87). -/
theorem faultPc_of_exec_fault {i : Instr} {s : State} {f : Fault} (h : exec i s = .fault f) : faultPc f = s.pc := by
  cases hu : undefinedIn s.params.havePmull64 i with
  | true =>
    rw [exec_of_undefined hu] at h
    cases h
    rfl
  | false =>
    cases hc : s.checkFPAdvSIMDEnabled64 with
    | trap target =>
      rw [exec_of_trap hu hc] at h
      cases h
      rfl
    | enabled =>
      obtain ⟨d, r, he⟩ := exec_of_enabled hu hc
      exact absurd (he.symm.trans h) (State.advance_ne_fault _ f)

/-- Settles O31: a next state is one register write and `pc + 4`, and both faults carry the pc. -/
theorem onlyDestinationAndPcChange : Obligations.OnlyDestinationAndPcChange := by
  intro i s
  refine ⟨?next, fun f => faultPc_of_exec_fault⟩
  case next =>
    intro t h
    obtain ⟨d, r, hd, hlt, rfl⟩ := exec_next_destOf h
    exact ⟨d, hd, fun k hk => s.writeV_v_other d k r hk, s.sameOutsideVAndPc_writeV_setPc d r _, fun _ => rfl, rfl, hlt⟩

end Sys2Proof.Machine

end

/-! PROOFS. State that no instruction sees (R27, R29, R30, R37). -/

section

namespace Sys2Proof.Machine

/-- A change of state that no instruction sees: it keeps what an instruction reads, and commutes with the two writes. -/
structure Unseen (g : State → State) : Prop where
  v_eq : ∀ s, (g s).v = s.v
  pc_eq : ∀ s, (g s).pc = s.pc
  params_eq : ∀ s, (g s).params = s.params
  checkInputs_eq : ∀ s, (g s).checkInputs = s.checkInputs
  comm_writeV : ∀ s (d : VReg) (r : BitVec 128), (g s).writeV d r = g (s.writeV d r)
  comm_setPc : ∀ s pc, (g s).setPc pc = g (s.setPc pc)

section

variable {g : State → State} (hg : Unseen g)
include hg

theorem Unseen.checkFPAdvSIMDEnabled64_eq (s : State) :
    (g s).checkFPAdvSIMDEnabled64 = s.checkFPAdvSIMDEnabled64 :=
  State.checkFPAdvSIMDEnabled64_congr (hg.params_eq s) (hg.checkInputs_eq s)

theorem Unseen.vpart_eq (s : State) (n : VReg) (part : Half) : (g s).vpart n part = s.vpart n part := by
  cases part <;> simp [State.vpart, hg.v_eq]

theorem Unseen.advance_eq (s : State) : (g s).advance = mapNext g s.advance := by
  by_cases hlt : s.pc.toNat + 4 < 2 ^ 64
  · rw [State.advance_of_lt hlt, State.advance_of_lt (by rwa [hg.pc_eq]), hg.pc_eq, hg.comm_setPc, mapNext]
  · rw [State.advance_of_not_lt hlt, State.advance_of_not_lt (by rwa [hg.pc_eq]), hg.pc_eq, mapNext]

/-- The shared operation takes its outcome from what the change keeps. -/
theorem Unseen.polynomialMultiplyLong_eq (word : Word) (part : Half) (esize elements : Nat) (d n m : VReg) (s : State) :
    polynomialMultiplyLong word part esize elements d n m (g s) =
      mapNext g (polynomialMultiplyLong word part esize elements d n m s) := by
  cases hc : s.checkFPAdvSIMDEnabled64 with
  | trap target =>
    rw [polynomialMultiplyLong_of_trap hc, polynomialMultiplyLong_of_trap ((hg.checkFPAdvSIMDEnabled64_eq s).trans hc),
      hg.pc_eq, mapNext]
  | enabled =>
    rw [polynomialMultiplyLong_of_enabled hc,
      polynomialMultiplyLong_of_enabled ((hg.checkFPAdvSIMDEnabled64_eq s).trans hc),
      lanesOf_congr (hg.vpart_eq s n part) (hg.vpart_eq s m part), hg.comm_writeV, hg.advance_eq]

/-- No instruction sees the change: the outcome is that of the state before it, with the same change made after. -/
theorem Unseen.exec_eq (i : Instr) (s : State) : exec i (g s) = mapNext g (exec i s) := by
  cases hu : undefinedIn s.params.havePmull64 i with
  | true => rw [exec_of_undefined hu, exec_of_undefined (by rwa [hg.params_eq]), hg.pc_eq, mapNext]
  | false =>
    obtain ⟨d, esize, elements, -, he⟩ := exec_eq_polynomialMultiplyLong hu
    rw [he s hu, he (g s) (by rwa [hg.params_eq]), hg.polynomialMultiplyLong_eq]

end

/-- Neither the check's five inputs nor the operation has a flag, a general register, a stack pointer or memory. -/
theorem unseen_withUnseen (n z c v : Bool) (x : Vector (BitVec 64) 31) (sp : Vector (BitVec 64) 4) (mem : Memory) :
    Unseen (withUnseen n z c v x sp mem) where
  v_eq _ := rfl
  pc_eq _ := rfl
  params_eq _ := rfl
  checkInputs_eq _ := rfl
  comm_writeV _ _ _ := rfl
  comm_setPc _ _ := rfl

/-- Of PSTATE the check reads the Exception level alone. -/
theorem unseen_withDit (dit : Bool) : Unseen (withDit dit) where
  v_eq _ := rfl
  pc_eq _ := rfl
  params_eq _ := rfl
  checkInputs_eq _ := rfl
  comm_writeV _ _ _ := rfl
  comm_setPc _ _ := rfl

/-- Settles O33: replacing flags, general registers, stack pointers and memory is a change that no instruction sees. -/
theorem flagsGeneralRegistersAndMemoryUnseen : Obligations.FlagsGeneralRegistersAndMemoryUnseen :=
  fun i s n z c v x sp mem => (unseen_withUnseen n z c v x sp mem).exec_eq i s

/-- Settles O34: replacing DIT is a change that no instruction sees. -/
theorem ditUnseen : Obligations.DitUnseen :=
  fun i s dit => (unseen_withDit dit).exec_eq i s

end Sys2Proof.Machine

end

/-! PROOFS. The invariant: at reset, over a step, over a run (R33, R35, R36, R40). -/

section

namespace Sys2Proof.Machine

/-- A pc that is a multiple of 4 stays one when it advances by 4. -/
theorem aligned_add_four {pc : BitVec 64} (ha : pc.toNat % 4 = 0) : (pc + 4#64).toNat % 4 = 0 := by
  rw [BitVec.toNat_add, BitVec.toNat_ofNat]
  omega

/-- Everything a step can do when it answers a next state: one SIMD&FP register written, `pc + 4`. -/
theorem step_next_eq {s t : State} (h : step s = .next t) :
    s.pc.toNat + 4 < 2 ^ 64 ∧ ∃ (d : VReg) (r : BitVec 128), t = (s.writeV d r).setPc (s.pc + 4#64) := by
  obtain ⟨i, -, he⟩ := step_next h
  exact (exec_next he).2

/-- Settles O50: a step writes neither memory nor the identification register nor a parameter, and moves the pc by 4. -/
theorem stepKeepsInvariant : Obligations.StepKeepsInvariant := by
  intro s t hinv h
  obtain ⟨hmem, hpc, hid⟩ := hinv
  obtain ⟨-, d, r, rfl⟩ := step_next_eq h
  exact ⟨hmem, aligned_add_four hpc, hid⟩

/-- No step changes a parameter (R6). -/
theorem step_next_params {s t : State} (h : step s = .next t) : t.params = s.params := by
  obtain ⟨-, d, r, rfl⟩ := step_next_eq h
  rfl

/-- A run of `k + 1` steps that answers a next state is a step and a run of `k`. -/
theorem run_succ_next {M : Host.Core} {k : Nat} {s t : M.State} (h : M.run (k + 1) s = .next t) :
    ∃ u, M.step s = .next u ∧ M.run k u = .next t := by
  cases hs : M.step s with
  | next u => exact ⟨u, rfl, by simpa [Host.Core.run, hs] using h⟩
  | fault r => simp [Host.Core.run, hs] at h
  | refused r => simp [Host.Core.run, hs] at h

/-- What every step keeps, every run keeps. -/
theorem run_keeps {P : State → Prop} (hstep : ∀ s t, P s → step s = .next t → P t) :
    ∀ {k : Nat} {s t : State}, P s → Sys2Proof.core.run k s = .next t → P t
  | 0, _, _, hs, h => Host.Outcome.next.inj h ▸ hs
  | _ + 1, s, _, hs, h =>
    let ⟨u, hu, hrun⟩ := run_succ_next h
    run_keeps hstep (hstep s u hs hu) hrun

/-- The three readings of the field AES tell the features apart, FEAT_PMULL coming with FEAT_AES (R33, C1). -/
theorem aesFieldFor_readings {havePmull64 haveAes : Bool} (h : havePmull64 = true → haveAes = true) :
    (aesFieldFor havePmull64 haveAes = 0b0010#4 ↔ havePmull64 = true ∧ haveAes = true) ∧
      (aesFieldFor havePmull64 haveAes = 0b0001#4 ↔ havePmull64 = false ∧ haveAes = true) ∧
      (aesFieldFor havePmull64 haveAes = 0b0000#4 ↔ havePmull64 = false ∧ haveAes = false) := by
  cases havePmull64 <;> cases haveAes <;> simp at h ⊢

/-- Settles O54: a run keeps the invariant and the parameters, and the field AES is read by them. -/
theorem aesFieldDisclosesFeatures : Obligations.AesFieldDisclosesFeatures := by
  intro k s t hinv hrun
  have hkeep : ∀ u w : State, u.Inv ∧ u.params = s.params → step u = .next w → w.Inv ∧ w.params = s.params :=
    fun u w hu hw => ⟨stepKeepsInvariant u w hu.1 hw, (step_next_params hw).trans hu.2⟩
  obtain ⟨⟨-, -, hid, himp⟩, hparams⟩ := run_keeps hkeep ⟨hinv, rfl⟩ hrun
  rw [hparams] at hid himp
  have hread : t.idAa64isar0El1.extractLsb' 4 4 = aesFieldFor s.params.havePmull64 s.params.haveAes := hid
  rw [hread]
  exact ⟨hparams, aesFieldFor_readings himp⟩

/-- The identification register at reset is that of the launch parameters (logs 1, 25). -/
theorem reset_idDisclosesFeatures : State.reset.idDisclosesFeatures := ⟨by decide, fun _ => rfl⟩

/-- Settles O51: no program is placed, the pc is 0, and the identification register is that of the parameters. -/
theorem resetMeetsInvariant : Obligations.ResetMeetsInvariant := ⟨reset_mem_wf, rfl, reset_idDisclosesFeatures⟩

/-- Settles O52: each is a field of the reset state. -/
theorem resetLeavesTheLoggedValues : Obligations.ResetLeavesTheLoggedValues :=
  ⟨rfl, rfl, rfl, rfl, rfl, rfl, rfl, rfl, rfl, rfl⟩

end Sys2Proof.Machine

end

/-! PROOFS. What memory reads after a byte or a word is placed (R39, R47). -/

section

namespace Sys2Proof.Machine

/-- A byte reads as placed, and every other address as before. -/
theorem Memory.read_write (m : Memory) (a a' : Nat) (b : Byte) :
    (m.write a b).read a' = if a' = a then some b else m.read a' := by
  induction m with
  | nil => rfl
  | cons cell rest ih =>
    obtain ⟨c, old⟩ := cell
    unfold Memory.write
    split
    case isTrue => rfl
    case isFalse =>
      split
      case isTrue hac =>
        subst hac
        by_cases h : a' = a <;> simp [Memory.read, h]
      case isFalse hac =>
        by_cases h : a' = c
        · simp [Memory.read, h, Ne.symm hac]
        · simp [Memory.read, h, ih]

/-- Settles O48: by induction on the list of bytes placed, wherever in it the address stands. -/
theorem readAfterWrite : Obligations.ReadAfterWrite := Memory.read_write

/-- The bytes of one word have addresses of their own, also where they wrap. -/
theorem byteAddr_ne (pc : BitVec 64) {j k : Nat} (hj : j < 4) (hk : k < 4) (h : j ≠ k) :
    byteAddr pc j ≠ byteAddr pc k := by
  simp only [byteAddr, BitVec.toNat_add, BitVec.toNat_ofNat]
  omega

/-- The four bytes of a word, put together little-endian, are the word (R39). -/
theorem wordOfBytes_extract (w : Word) :
    wordOfBytes (w.extractLsb' 0 8) (w.extractLsb' 8 8) (w.extractLsb' 16 8) (w.extractLsb' 24 8) = w := by
  rw [wordOfBytes, BitVec.extractLsb'_append_extractLsb'_eq_extractLsb' (by decide),
    BitVec.extractLsb'_append_extractLsb'_eq_extractLsb' (by decide),
    BitVec.extractLsb'_append_extractLsb'_eq_extractLsb' (by decide)]
  exact BitVec.extractLsb'_eq_self

/-- What is fetched at an address where a word was placed is that word (R39). -/
theorem fetchWord_placeWord (m : Memory) (pc : BitVec 64) (w : Word) : fetchWord (placeWord m pc w) pc = some w := by
  simp [fetchWord, placeWord, Memory.read_write, byteAddr_ne, wordOfBytes_extract]

/-- A word laid out at its full 32 bits is itself (R48). -/
theorem tableWord_toNat (w : Word) : tableWord 32 w.toNat = w := by
  rw [tableWord, Nat.mod_eq_of_lt w.isLt, BitVec.ofNat_toNat, BitVec.setWidth_eq]

end Sys2Proof.Machine

end

/-! PROOFS. Decoding undoes encoding (R51, R55, R64). -/

section

namespace Sys2Proof

/-- A register number survives its 5-bit field (R61). -/
@[simp] theorem regOf_bitsOfReg (r : VReg) : regOf (bitsOfReg r) = r := by
  apply Fin.ext
  simp [regOf, bitsOfReg]

/-- The fields of a word are those put into it (R51, R64). -/
theorem fieldsOf_encodeFields (q : BitVec 1) (size : BitVec 2) (d n m : VReg) :
    fieldsOf (encodeFields q size d n m) = ⟨q, size, bitsOfReg m, bitsOfReg n, bitsOfReg d⟩ := by
  unfold fieldsOf encodeFields patternMatch
  generalize bitsOfReg d = bd
  generalize bitsOfReg n = bn
  generalize bitsOfReg m = bm
  -- One goal for each of the five fields, closed bit by bit.
  congr 1
  all_goals
    ext k hk
    interval_cases k <;> simp

/-- A word put together from fields decodes to the row that they select (R50). -/
theorem decode_encodeFields (havePmull64 : Bool) (q : BitVec 1) (size : BitVec 2) (d n m : VReg) :
    decode havePmull64 (encodeFields q size d n m) =
      .ok (rowOf havePmull64 ⟨q, size, bitsOfReg m, bitsOfReg n, bitsOfReg d⟩) := by
  have hfits : encodeFields q size d n m &&& patternMask = patternMatch := Laws.encodeFields_fits q size d n m
  rw [decode, if_pos hfits, fieldsOf_encodeFields]

/-- The word of an instruction of the implementation decodes to that instruction (R55). -/
theorem decode_encode {havePmull64 : Bool} {i : Instr} (h : i.wellFormed havePmull64 = true) :
    decode havePmull64 (encode i) = .ok i := by
  cases i with
  | pmullB8 d n m => simp [encode, decode_encodeFields, rowOf]
  | pmull2B16 d n m => simp [encode, decode_encodeFields, rowOf]
  | pmullD1 d n m =>
    have hfeature : havePmull64 = true := h
    simp [encode, decode_encodeFields, rowOf, hfeature]
  | pmull2D2 d n m =>
    have hfeature : havePmull64 = true := h
    simp [encode, decode_encodeFields, rowOf, hfeature]
  | undefinedSize01 q d n m => simp [encode, decode_encodeFields, rowOf]
  | undefinedSize10 q d n m => simp [encode, decode_encodeFields, rowOf]
  | undefinedSize11 q d n m =>
    have hfeature : havePmull64 = false := by simpa [Instr.wellFormed] using h
    simp [encode, decode_encodeFields, rowOf, hfeature]

end Sys2Proof

end

/-! PROOFS. What a step fetches, and what a run keeps (R35, R39, R40, R47). -/

section

namespace Sys2Proof.Machine

/-- Settles O49: the word placed is the word fetched, and it decodes to its instruction. -/
theorem placedInstructionRuns : Obligations.PlacedInstructionRuns := by
  intro s i ha hwf
  have hw : fetchWord (s.withFetchWord 32 (encode i).toNat).mem s.pc = some (encode i) := by
    rw [State.withFetchWord_mem, tableWord_toNat, fetchWord_placeWord]
  exact step_of_fetchInstr (State.fetchInstr_of_decode ha hw (decode_encode hwf))

/-- No word is fetched where one of its bytes has not been placed. -/
theorem fetchWord_of_read_none {m : Memory} {pc : BitVec 64} {k : Nat} (hk : k < 4)
    (h : m.read (byteAddr pc k) = none) : fetchWord m pc = none := by
  unfold fetchWord
  split
  case h_1 h0 h1 h2 h3 =>
    have hplaced : m.read (byteAddr pc k) ≠ none := by interval_cases k <;> simp [h0, h1, h2, h3]
    exact absurd h hplaced
  case h_2 => rfl

/-- A step is refused for the reason for which fetching is. -/
theorem step_of_fetchInstr_error {s : State} {r : Refusal} (h : s.fetchInstr = .error r) : step s = .refused r := by
  simp [step, h]

/-- Settles O47: fetching tests the pc first, and then asks for all four bytes. -/
theorem stepNeedsAlignedPlacedText : Obligations.StepNeedsAlignedPlacedText := by
  intro s
  refine ⟨?misaligned, ?unplaced⟩
  case misaligned => exact fun ha => step_of_fetchInstr_error (if_pos ha)
  case unplaced =>
    rintro ha ⟨k, hk, hnone⟩
    have hw : fetchWord s.mem s.pc = none := fetchWord_of_read_none hk hnone
    exact step_of_fetchInstr_error (by simp [State.fetchInstr, ha, hw])

theorem SameOutsideVAndPc.refl (s : State) : SameOutsideVAndPc s s :=
  ⟨rfl, rfl, rfl, rfl, rfl, rfl, rfl, rfl, rfl, rfl, rfl, rfl, rfl⟩

theorem SameOutsideVAndPc.trans {s t u : State} (hst : SameOutsideVAndPc s t) (htu : SameOutsideVAndPc t u) :
    SameOutsideVAndPc s u := by
  simp_all [SameOutsideVAndPc]

/-- A step changes registers and pc alone, and the pc moves up by 4 (R28, R35). -/
theorem step_next_frame {s t : State} (h : step s = .next t) :
    SameOutsideVAndPc s t ∧ t.pc.toNat = s.pc.toNat + 4 := by
  obtain ⟨hlt, d, r, rfl⟩ := step_next_eq h
  exact ⟨s.sameOutsideVAndPc_writeV_setPc d r _, BitVec.toNat_add_of_lt hlt⟩

/-- Settles O53: by induction on the number of steps, from the frame of one step. -/
theorem runKeepsTextAndControlState : Obligations.RunKeepsTextAndControlState := by
  intro k
  induction k with
  | zero =>
    intro s t h
    cases h
    exact ⟨.refl s, rfl⟩
  | succ k ih =>
    intro s t h
    obtain ⟨u, hu, hrun⟩ := run_succ_next h
    obtain ⟨hsame, hpc⟩ := step_next_frame hu
    obtain ⟨hsame', hpc'⟩ := ih u t hrun
    exact ⟨hsame.trans hsame', by omega⟩

end Sys2Proof.Machine

end

/-! PROOFS. Encoding undoes decoding, and the rows of the opcode map (R50, R51, R53, R55, R64). -/

section

namespace Sys2Proof

/-- The field of a register number is the field the number came from (R52, R61). -/
@[simp] theorem bitsOfReg_regOf (b : BitVec 5) : bitsOfReg (regOf b) = b := by
  simp [bitsOfReg, regOf]

/-- A word of the pattern is put together from its own fields (R50, R51). -/
theorem encodeFields_fieldsOf {w : Word} (h : w &&& patternMask = patternMatch) :
    encodeFields (fieldsOf w).q (fieldsOf w).size (regOf (fieldsOf w).rd) (regOf (fieldsOf w).rn)
      (regOf (fieldsOf w).rm) = w := by
  simp only [encodeFields, fieldsOf, bitsOfReg_regOf]
  rw [← h, patternMask]
  ext k hk
  interval_cases k <;> simp

/-- The four values of the field size, which R52 tests one by one. -/
theorem size_cases (size : BitVec 2) : size = 0b00#2 ∨ size = 0b01#2 ∨ size = 0b10#2 ∨ size = 0b11#2 := by
  revert size
  decide

/-- The row that fields select is encoded as these fields, and is one that the implementation has (R55, R64). -/
theorem encode_rowOf_and_wellFormed (havePmull64 : Bool) (f : Fields) :
    encode (rowOf havePmull64 f) = encodeFields f.q f.size (regOf f.rd) (regOf f.rn) (regOf f.rm) ∧
      (rowOf havePmull64 f).wellFormed havePmull64 = true := by
  obtain ⟨q, size, rm, rn, rd⟩ := f
  obtain rfl | rfl | rfl | rfl := size_cases size
  case inl => obtain rfl | rfl := q.eq_zero_or_eq_one <;> simp [rowOf, encode, Instr.wellFormed]
  case inr.inl => simp [rowOf, encode, Instr.wellFormed]
  case inr.inr.inl => simp [rowOf, encode, Instr.wellFormed]
  case inr.inr.inr =>
    cases havePmull64 with
    | false => simp [rowOf, encode, Instr.wellFormed]
    | true => obtain rfl | rfl := q.eq_zero_or_eq_one <;> simp [rowOf, encode, Instr.wellFormed]

/-- A word of the pattern decodes to the row that its fields select (R50). -/
theorem decode_of_fits (havePmull64 : Bool) {w : Word} (h : w &&& patternMask = patternMatch) :
    decode havePmull64 w = .ok (rowOf havePmull64 (fieldsOf w)) := if_pos h

/-- A word off the pattern is not decoded (R56). -/
theorem decode_of_not_fits (havePmull64 : Bool) {w : Word} (h : ¬ w &&& patternMask = patternMatch) :
    decode havePmull64 w = .error (.notPmull w) := if_neg h

theorem exists_decode_eq_ok_iff (havePmull64 : Bool) (w : Word) :
    (∃ i, decode havePmull64 w = .ok i) ↔ w &&& patternMask = patternMatch := by
  by_cases h : w &&& patternMask = patternMatch
  · simp [decode_of_fits havePmull64 h, h]
  · simp [decode_of_not_fits havePmull64 h, h]

/-- A word decodes to an instruction exactly when it is the word of it and the implementation has it (R55, R64). -/
theorem decode_eq_ok_iff {havePmull64 : Bool} {w : Word} {i : Instr} :
    decode havePmull64 w = .ok i ↔ encode i = w ∧ i.wellFormed havePmull64 = true := by
  constructor
  · intro hd
    have hfits := (exists_decode_eq_ok_iff havePmull64 w).mp ⟨i, hd⟩
    obtain rfl : rowOf havePmull64 (fieldsOf w) = i := by simpa [decode_of_fits havePmull64 hfits] using hd
    obtain ⟨hencode, hwf⟩ := encode_rowOf_and_wellFormed havePmull64 (fieldsOf w)
    exact ⟨hencode.trans (encodeFields_fieldsOf hfits), hwf⟩
  · rintro ⟨rfl, hwf⟩
    exact decode_encode hwf

/-- The words that some choice of registers puts together from a given Q and size (R50, R51). -/
theorem exists_encodeFields_eq_iff {q : BitVec 1} {size : BitVec 2} {w : Word} :
    (∃ d n m, encodeFields q size d n m = w) ↔
      w &&& patternMask = patternMatch ∧ (fieldsOf w).q = q ∧ (fieldsOf w).size = size := by
  constructor
  · rintro ⟨d, n, m, rfl⟩
    rw [fieldsOf_encodeFields]
    exact ⟨Laws.encodeFields_fits .., rfl, rfl⟩
  · rintro ⟨hfits, rfl, rfl⟩
    exact ⟨_, _, _, encodeFields_fieldsOf hfits⟩

/-- The mask of a row of rows 1 to 4 clears the registers of a word (R55). -/
theorem encodeFields_and_rowMask (q : BitVec 1) (size : BitVec 2) (d n m : VReg) :
    encodeFields q size d n m &&& 0xFFE0FC00#32 = encodeFields q size 0 0 0 := by
  have hzero : bitsOfReg 0 = 0#5 := rfl
  simp only [encodeFields, patternMatch, hzero]
  generalize bitsOfReg d = bd, bitsOfReg n = bn, bitsOfReg m = bm
  apply BitVec.eq_of_getLsbD_eq
  intro k hk
  interval_cases k <;> simp

/-- The mask of an UNDEFINED row clears the bit Q too (R55). -/
theorem encodeFields_and_sizeMask (q : BitVec 1) (size : BitVec 2) (d n m : VReg) :
    encodeFields q size d n m &&& 0xBFE0FC00#32 = encodeFields 0#1 size 0 0 0 := by
  have hmask : 0xFFE0FC00#32 &&& 0xBFE0FC00#32 = 0xBFE0FC00#32 := rfl
  rw [← hmask, ← BitVec.and_assoc, encodeFields_and_rowMask]
  revert q size
  decide

/-- A mask that keeps the fixed bits keeps the words of the pattern apart from the others (R50). -/
theorem fits_of_and_eq_encodeFields {w mask : Word} {q : BitVec 1} {size : BitVec 2}
    (hmask : mask &&& patternMask = patternMask) (h : w &&& mask = encodeFields q size 0 0 0) :
    w &&& patternMask = patternMatch := by
  rw [← hmask, ← BitVec.and_assoc, h]
  exact Laws.encodeFields_fits ..

/-- Mask and match of a row of rows 1 to 4: the pattern, one value of Q and one of size (R55). -/
theorem and_rowMask_eq_iff {q : BitVec 1} {size : BitVec 2} {w : Word} :
    w &&& 0xFFE0FC00#32 = encodeFields q size 0 0 0 ↔
      w &&& patternMask = patternMatch ∧ (fieldsOf w).q = q ∧ (fieldsOf w).size = size := by
  constructor
  · intro h
    have hq : (fieldsOf (w &&& 0xFFE0FC00#32)).q = (fieldsOf w).q :=
      BitVec.extractLsb'_and.trans BitVec.and_allOnes
    have hsize : (fieldsOf (w &&& 0xFFE0FC00#32)).size = (fieldsOf w).size :=
      BitVec.extractLsb'_and.trans BitVec.and_allOnes
    rw [← hq, ← hsize, h, fieldsOf_encodeFields]
    exact ⟨fits_of_and_eq_encodeFields rfl h, rfl, rfl⟩
  · intro h
    obtain ⟨d, n, m, rfl⟩ := exists_encodeFields_eq_iff.mpr h
    exact encodeFields_and_rowMask ..

/-- Mask and match of an UNDEFINED row: the pattern and one value of size (R53, R55). -/
theorem and_sizeMask_eq_iff {size : BitVec 2} {w : Word} :
    w &&& 0xBFE0FC00#32 = encodeFields 0#1 size 0 0 0 ↔
      w &&& patternMask = patternMatch ∧ (fieldsOf w).size = size := by
  constructor
  · intro h
    have hsize : (fieldsOf (w &&& 0xBFE0FC00#32)).size = (fieldsOf w).size :=
      BitVec.extractLsb'_and.trans BitVec.and_allOnes
    rw [← hsize, h, fieldsOf_encodeFields]
    exact ⟨fits_of_and_eq_encodeFields rfl h, rfl⟩
  · rintro ⟨hfits, hsize⟩
    obtain ⟨d, n, m, hw⟩ := exists_encodeFields_eq_iff.mpr ⟨hfits, rfl, hsize⟩
    rw [← hw, encodeFields_and_sizeMask]

/-- The words of a row of rows 1 to 4, by mask, match and needs (R55). -/
theorem exists_decode_eq_row_iff {row : VReg → VReg → VReg → Instr} {q : BitVec 1} {size : BitVec 2}
    {havePmull64 needs : Bool} {w : Word} (hencode : ∀ d n m, encode (row d n m) = encodeFields q size d n m)
    (hneeds : ∀ d n m, (row d n m).wellFormed havePmull64 = needs) :
    (∃ d n m, decode havePmull64 w = .ok (row d n m)) ↔
      w &&& 0xFFE0FC00#32 = encodeFields q size 0 0 0 ∧ needs = true := by
  simp only [decode_eq_ok_iff, hencode, hneeds, exists_and_right, exists_encodeFields_eq_iff, and_rowMask_eq_iff]

/-- The words of an UNDEFINED row, by mask, match and needs (R55). -/
theorem exists_decode_eq_undefinedRow_iff {row : BitVec 1 → VReg → VReg → VReg → Instr} {size : BitVec 2}
    {havePmull64 needs : Bool} {w : Word} (hencode : ∀ q d n m, encode (row q d n m) = encodeFields q size d n m)
    (hneeds : ∀ q d n m, (row q d n m).wellFormed havePmull64 = needs) :
    (∃ q d n m, decode havePmull64 w = .ok (row q d n m)) ↔
      w &&& 0xBFE0FC00#32 = encodeFields 0#1 size 0 0 0 ∧ needs = true := by
  simp only [decode_eq_ok_iff, hencode, hneeds, exists_and_right, exists_encodeFields_eq_iff, and_sizeMask_eq_iff,
    exists_and_left, exists_eq', true_and]

/-- Settles O1: a word of the pattern holds the fields put into it, and they select the row they came from. -/
theorem decodeOfEncode : Obligations.DecodeOfEncode := fun _ _ => decode_encode

/-- Settles O2: a word of the pattern is put together from its own fields, which are those of its row. -/
theorem encodeOfDecode : Obligations.EncodeOfDecode := fun _ _ _ => decode_eq_ok_iff.mp

theorem exists_decode_eq_pmullB8_iff (havePmull64 : Bool) (w : Word) :
    (∃ d n m, decode havePmull64 w = .ok (.pmullB8 d n m)) ↔ w &&& 0xFFE0FC00#32 = 0x0E20E000#32 :=
  (exists_decode_eq_row_iff (row := .pmullB8) (fun _ _ _ => rfl) (fun _ _ _ => rfl)).trans (and_iff_left rfl)

theorem exists_decode_eq_undefinedSize01_iff (havePmull64 : Bool) (w : Word) :
    (∃ q d n m, decode havePmull64 w = .ok (.undefinedSize01 q d n m)) ↔ w &&& 0xBFE0FC00#32 = 0x0E60E000#32 :=
  (exists_decode_eq_undefinedRow_iff (row := .undefinedSize01) (fun _ _ _ _ => rfl) (fun _ _ _ _ => rfl)).trans
    (and_iff_left rfl)

theorem exists_decode_eq_undefinedSize10_iff (havePmull64 : Bool) (w : Word) :
    (∃ q d n m, decode havePmull64 w = .ok (.undefinedSize10 q d n m)) ↔ w &&& 0xBFE0FC00#32 = 0x0EA0E000#32 :=
  (exists_decode_eq_undefinedRow_iff (row := .undefinedSize10) (fun _ _ _ _ => rfl) (fun _ _ _ _ => rfl)).trans
    (and_iff_left rfl)

theorem exists_decode_eq_undefinedSize11_iff (havePmull64 : Bool) (w : Word) :
    (∃ q d n m, decode havePmull64 w = .ok (.undefinedSize11 q d n m)) ↔
      w &&& 0xBFE0FC00#32 = 0x0EE0E000#32 ∧ havePmull64 = false :=
  (exists_decode_eq_undefinedRow_iff (row := .undefinedSize11) (needs := !havePmull64) (fun _ _ _ _ => rfl)
    (fun _ _ _ _ => rfl)).trans (and_congr_right' (by simp))

/-- Settles O3: each row is one value of size, and of Q in rows 1 to 4, in the pattern. -/
theorem rowsByMaskAndMatch : Obligations.RowsByMaskAndMatch := by
  intro havePmull64 w
  refine ⟨?row1, ?row2, ?row3, ?row4, ?row5, ?row6, ?row7, exists_decode_eq_ok_iff havePmull64 w⟩
  case row1 => exact exists_decode_eq_pmullB8_iff havePmull64 w
  case row2 =>
    exact (exists_decode_eq_row_iff (row := .pmull2B16) (fun _ _ _ => rfl) (fun _ _ _ => rfl)).trans (and_iff_left rfl)
  case row3 => exact exists_decode_eq_row_iff (row := .pmullD1) (fun _ _ _ => rfl) (fun _ _ _ => rfl)
  case row4 => exact exists_decode_eq_row_iff (row := .pmull2D2) (fun _ _ _ => rfl) (fun _ _ _ => rfl)
  case row5 => exact exists_decode_eq_undefinedSize01_iff havePmull64 w
  case row6 => exact exists_decode_eq_undefinedSize10_iff havePmull64 w
  case row7 => exact exists_decode_eq_undefinedSize11_iff havePmull64 w

end Sys2Proof

end

/-! PROOFS. The decode pseudocode, and the step on an UNDEFINED word and on a word off the pattern (R51 to R54, R56,
R82). -/

section

namespace Sys2Proof.Machine

/-- The half that an instruction reads is that of its bit Q (R52). -/
theorem partOf_fieldsOf_encode (i : Instr) : partOf (fieldsOf (encode i)).q = halfOf i := by
  cases i <;> simp [encode, fieldsOf_encodeFields, partOf, halfOf]

/-- The source registers of an instruction are those of the fields Rn and Rm (R52). -/
theorem sourcesOf_eq_fieldsOf_encode (i : Instr) :
    sourcesOf i = (regOf (fieldsOf (encode i)).rn, regOf (fieldsOf (encode i)).rm) := by
  cases i <;> simp [encode, fieldsOf_encodeFields, sourcesOf]

/-- The destination register of an instruction, where it has one, is that of the field Rd (R52). -/
theorem regOf_rd_eq_of_destOf {i : Instr} {d : VReg} : destOf i = some d → regOf (fieldsOf (encode i)).rd = d := by
  cases i <;> simp [encode, fieldsOf_encodeFields, destOf]

/-- The tests of R52: an instruction of the implementation is UNDEFINED by its size alone, given HAVE_PMULL64. -/
theorem undefinedIn_iff_size {havePmull64 : Bool} {i : Instr} (h : i.wellFormed havePmull64 = true) :
    undefinedIn havePmull64 i = true ↔
      (fieldsOf (encode i)).size = 0b01#2 ∨ (fieldsOf (encode i)).size = 0b10#2 ∨
        ((fieldsOf (encode i)).size = 0b11#2 ∧ havePmull64 = false) := by
  cases i
  case undefinedSize11 q d n m =>
    have hfeature : havePmull64 = false := by simpa [Instr.wellFormed] using h
    simp [encode, fieldsOf_encodeFields, undefinedIn, hfeature]
  all_goals simp [encode, fieldsOf_encodeFields, undefinedIn]

theorem partOf_eq_lower_iff {q : BitVec 1} : partOf q = .lower ↔ q = 0#1 := by
  simp [partOf]

/-- `8 << UInt(size)` is a product with a power of 2 (R52). -/
theorem esizeOf_eq (size : BitVec 2) : esizeOf size = 8 * 2 ^ size.toNat := Nat.shiftLeft_eq 8 _

/-- Settles O5: the word of an instruction holds its fields, and each row's reading of them is that of R52. -/
theorem decodeStatements : Obligations.DecodeStatements := by
  refine ⟨?fields, esizeOf_eq, fun _ => rfl, rfl, rfl, rfl, rfl, rfl, rfl, rfl⟩
  case fields =>
    intro havePmull64 w i hd
    obtain ⟨rfl, hwf⟩ := decode_eq_ok_iff.mp hd
    refine ⟨undefinedIn_iff_size hwf, ?n, ?m, ?d, ?half⟩
    case n => rw [sourcesOf_eq_fieldsOf_encode]; rfl
    case m => rw [sourcesOf_eq_fieldsOf_encode]; rfl
    case d => exact fun d hdest => congrArg Fin.val (regOf_rd_eq_of_destOf hdest).symm
    case half => rw [← partOf_fieldsOf_encode]; exact partOf_eq_lower_iff

/-- A step that fetches a word that decodes to an UNDEFINED instruction is that fault, with the word's record (R87). -/
theorem step_of_decode_undefined {s : State} {w : Word} {i : Instr} (ha : s.pc.toNat % 4 = 0)
    (hw : fetchWord s.mem s.pc = some w) (hd : decode s.params.havePmull64 w = .ok i)
    (hu : undefinedIn s.params.havePmull64 i = true) : step s = .fault (.undefined s.pc w) := by
  obtain ⟨rfl, -⟩ := decode_eq_ok_iff.mp hd
  exact (step_of_fetchInstr (State.fetchInstr_of_decode ha hw hd)).trans (exec_of_undefined hu)

/-- Settles O35: the words are those of rows 5 and 6, whose instructions are UNDEFINED in every state. -/
theorem reservedSizesAreUndefined : Obligations.ReservedSizesAreUndefined := by
  intro w
  constructor
  · have h01 : w &&& 0xBFE0FC00#32 = 0x0E60E000#32 ↔ _ := and_sizeMask_eq_iff (size := 0b01#2)
    have h10 : w &&& 0xBFE0FC00#32 = 0x0EA0E000#32 ↔ _ := and_sizeMask_eq_iff (size := 0b10#2)
    rw [h01, h10, ← and_or_left]
    rfl
  · rintro s ha hw (h01 | h10)
    · obtain ⟨q, d, n, m, hd⟩ := (exists_decode_eq_undefinedSize01_iff s.params.havePmull64 w).mpr h01
      exact step_of_decode_undefined ha hw hd rfl
    · obtain ⟨q, d, n, m, hd⟩ := (exists_decode_eq_undefinedSize10_iff s.params.havePmull64 w).mpr h10
      exact step_of_decode_undefined ha hw hd rfl

/-- Settles O36: without the feature the words are those of row 7, whose instructions are UNDEFINED. -/
theorem sixtyFourBitFormsUndefinedWithoutFeature : Obligations.SixtyFourBitFormsUndefinedWithoutFeature := by
  intro w s ha hw hmask hfeature
  obtain ⟨q, d, n, m, hd⟩ := (exists_decode_eq_undefinedSize11_iff s.params.havePmull64 w).mpr ⟨hmask, hfeature⟩
  exact step_of_decode_undefined ha hw hd rfl

/-- Settles O4: a field is the word shifted down to its first bit and cut to its width. -/
theorem fieldExtraction : Obligations.FieldExtraction := by
  intro w
  simp [fieldsOf, BitVec.extractLsb'_toNat, Nat.shiftRight_eq_div_pow]

/-- Settles O6: each word is decoded by evaluation. -/
theorem manualWordsDecode : Obligations.ManualWordsDecode := ⟨rfl, rfl, rfl, rfl, rfl, rfl, rfl⟩

/-- Settles O37: the three rows are UNDEFINED with and without HAVE_PMULL64. -/
theorem undefinedRowsAlwaysFault : Obligations.UndefinedRowsAlwaysFault :=
  fun _ _ _ _ _ => ⟨exec_of_undefined rfl, exec_of_undefined rfl, exec_of_undefined rfl⟩

/-- Settles O46: the word is not decoded, and fetching hands the reason on to the step. -/
theorem stepRefusesOtherWords : Obligations.StepRefusesOtherWords := by
  intro s w ha hw hfits
  exact step_of_fetchInstr_error (by simp [State.fetchInstr, ha, hw, decode_of_not_fits _ hfits])

end Sys2Proof.Machine

end

/-! PROOFS. The assembler syntax: the symbol tables, assembling and disassembling (R60 to R64). -/

section

namespace Sys2Proof.Machine

/-- The table of `<Ta>` read backwards is the same table (R62). -/
theorem sizeOfTa_eq_some_iff (havePmull64 : Bool) (ta : Arrangement) (size : BitVec 2) :
    sizeOfTa havePmull64 ta = some size ↔ taOfSize havePmull64 size = some ta := by
  revert size
  cases havePmull64 <;> cases ta <;> decide

/-- Settles O7: the tables are read entry by entry, and the symbol 2 gives the half by way of Q. -/
theorem symbolTables : Obligations.SymbolTables := by
  refine ⟨⟨rfl, rfl⟩, ?halves, ?ta, sizeOfTa_eq_some_iff, rfl, rfl, fun _ => rfl, fun _ => rfl, rfl, rfl⟩
  case halves =>
    intro s n d r
    exact ⟨rfl, rfl, (s.writeV_v_self d r).trans (BitVec.setWidth_eq r)⟩
  case ta => exact fun _ => ⟨rfl, rfl, rfl, rfl⟩

/-- The spelling of an instruction of rows 1 to 4, as the disassembler prints it; the UNDEFINED rows have none (R64). -/
def spellingOf : Instr → Option Spelling
  | .pmullB8 d n m => some ⟨false, d.val, .h8, n.val, .b8, m.val, .b8⟩
  | .pmull2B16 d n m => some ⟨true, d.val, .h8, n.val, .b16, m.val, .b16⟩
  | .pmullD1 d n m => some ⟨false, d.val, .q1, n.val, .d1, m.val, .d1⟩
  | .pmull2D2 d n m => some ⟨true, d.val, .q1, n.val, .d2, m.val, .d2⟩
  | .undefinedSize01 _ _ _ _ => none
  | .undefinedSize10 _ _ _ _ => none
  | .undefinedSize11 _ _ _ _ => none

/-- A word is printed as the spelling of the instruction it decodes to. -/
theorem disassemble_eq_some_iff {havePmull64 : Bool} {w : Word} {t : Spelling} :
    disassemble havePmull64 w = some t ↔ ∃ i, decode havePmull64 w = .ok i ∧ spellingOf i = some t := by
  unfold disassemble
  cases decode havePmull64 w with
  | error e => simp
  | ok i => cases i <;> simp [spellingOf]

/-- A register name has a number exactly when it is written with that number (R61). -/
theorem regOfName_eq_some_iff {i : Nat} {r : VReg} : regOfName i = some r ↔ i = r.val := by
  unfold regOfName
  split
  case isTrue hi => simp [Fin.ext_iff]
  case isFalse hi =>
    have hne : i ≠ r.val := by omega
    simp [hne]

/-- Assembling is the reading of the symbols and numbers of a spelling into fields, where the tables agree (R64). -/
theorem assemble_eq_some_iff_fields {havePmull64 : Bool} {w : Word} {t : Spelling} :
    assemble havePmull64 t = some w ↔
      ∃ size d n m, sizeOfTa havePmull64 t.ta = some size ∧ t.vd = d.val ∧ t.vn = n.val ∧ t.vm = m.val ∧
        tbOfSizeQ size (qOfTwo t.two) = some t.tbn ∧ t.tbm = t.tbn ∧
        encodeFields (qOfTwo t.two) size d n m = w := by
  simp only [← regOfName_eq_some_iff]
  unfold assemble
  split
  case h_1 size d n m hsize hd hn hm => simp [hsize, hd, hn, hm, and_assoc]
  case h_2 hnone =>
    simp only [reduceCtorEq, false_iff]
    rintro ⟨size, d, n, m, hsize, hd, hn, hm, -⟩
    exact hnone size d n m hsize hd hn hm

/-- The two entries of the table of `<Ta>` (R62). -/
theorem eq_of_sizeOfTa {havePmull64 : Bool} {ta : Arrangement} {size : BitVec 2}
    (h : sizeOfTa havePmull64 ta = some size) :
    (ta = .h8 ∧ size = 0b00#2) ∨ (ta = .q1 ∧ size = 0b11#2 ∧ havePmull64 = true) := by
  cases ta
  case h8 => exact .inl ⟨rfl, (Option.some.inj h).symm⟩
  case q1 =>
    cases havePmull64
    · cases h
    · exact .inr ⟨rfl, (Option.some.inj h).symm, rfl⟩
  all_goals cases h

/-- A spelling assembles to the words of the instructions of the implementation that have this spelling (R64, D24). -/
theorem assemble_eq_some_iff {havePmull64 : Bool} {w : Word} {t : Spelling} :
    assemble havePmull64 t = some w ↔
      ∃ i, (encode i = w ∧ i.wellFormed havePmull64 = true) ∧ spellingOf i = some t := by
  rw [assemble_eq_some_iff_fields]
  constructor
  · obtain ⟨two, vd, ta, vn, tbn, vm, tbm⟩ := t
    dsimp only
    rintro ⟨size, d, n, m, hsize, rfl, rfl, rfl, htb, rfl, rfl⟩
    obtain ⟨rfl, rfl⟩ | ⟨rfl, rfl, hfeature⟩ := eq_of_sizeOfTa hsize <;> cases two <;> cases htb
    · exact ⟨.pmullB8 d n m, ⟨rfl, rfl⟩, rfl⟩
    · exact ⟨.pmull2B16 d n m, ⟨rfl, rfl⟩, rfl⟩
    · exact ⟨.pmullD1 d n m, ⟨rfl, hfeature⟩, rfl⟩
    · exact ⟨.pmull2D2 d n m, ⟨rfl, hfeature⟩, rfl⟩
  · rintro ⟨i, ⟨rfl, hwf⟩, ht⟩
    cases i with
    | pmullB8 d n m => cases ht; exact ⟨_, d, n, m, rfl, rfl, rfl, rfl, rfl, rfl, rfl⟩
    | pmull2B16 d n m => cases ht; exact ⟨_, d, n, m, rfl, rfl, rfl, rfl, rfl, rfl, rfl⟩
    | pmullD1 d n m => cases ht; exact ⟨_, d, n, m, if_pos hwf, rfl, rfl, rfl, rfl, rfl, rfl⟩
    | pmull2D2 d n m => cases ht; exact ⟨_, d, n, m, if_pos hwf, rfl, rfl, rfl, rfl, rfl, rfl⟩
    | undefinedSize01 q d n m => cases ht
    | undefinedSize10 q d n m => cases ht
    | undefinedSize11 q d n m => cases ht

/-- Settles O8: both say that the word is that of an instruction of the implementation that has the spelling. -/
theorem assembleDisassemble : Obligations.AssembleDisassemble := by
  intro havePmull64 w t
  simp only [disassemble_eq_some_iff, assemble_eq_some_iff, decode_eq_ok_iff]

/-- Settles O9: the four consistent spellings are those of the instructions of rows 1 to 4. -/
theorem consistentSpellings : Obligations.ConsistentSpellings := by
  intro havePmull64 t
  simp only [assemble_eq_some_iff]
  constructor
  · rintro ⟨w, i, ⟨-, hwf⟩, ht⟩
    cases i with
    | pmullB8 d n m => cases ht; simp
    | pmull2B16 d n m => cases ht; simp
    | pmullD1 d n m => cases ht; simpa [Instr.wellFormed] using hwf
    | pmull2D2 d n m => cases ht; simpa [Instr.wellFormed] using hwf
    | undefinedSize01 q d n m => cases ht
    | undefinedSize10 q d n m => cases ht
    | undefinedSize11 q d n m => cases ht
  · obtain ⟨two, vd, ta, vn, tbn, vm, tbm⟩ := t
    rintro ⟨⟨hd, hn, hm⟩, ⟨rfl, rfl, rfl, rfl⟩ | ⟨rfl, rfl, rfl, rfl⟩ | ⟨rfl, rfl, rfl, rfl, hfeature⟩ |
      ⟨rfl, rfl, rfl, rfl, hfeature⟩⟩
    · exact ⟨_, .pmullB8 ⟨vd, hd⟩ ⟨vn, hn⟩ ⟨vm, hm⟩, ⟨rfl, rfl⟩, rfl⟩
    · exact ⟨_, .pmull2B16 ⟨vd, hd⟩ ⟨vn, hn⟩ ⟨vm, hm⟩, ⟨rfl, rfl⟩, rfl⟩
    · exact ⟨_, .pmullD1 ⟨vd, hd⟩ ⟨vn, hn⟩ ⟨vm, hm⟩, ⟨rfl, hfeature⟩, rfl⟩
    · exact ⟨_, .pmull2D2 ⟨vd, hd⟩ ⟨vn, hn⟩ ⟨vm, hm⟩, ⟨rfl, hfeature⟩, rfl⟩

end Sys2Proof.Machine

end

/-! PROOFS. The printed text of a spelling reads back (R59, R61, D25; log 26). -/

section

namespace Sys2Proof.Machine

/-- A digit character is read as a digit of its value. -/
theorem digitChar_read {n : Nat} (h : n < 10) : (digitChar n).isDigit = true ∧ (digitChar n).toNat - 48 = n := by
  interval_cases n <;> decide

/-- Only the digit 0 is printed as the character `0`. -/
theorem digitChar_ne_zero {n : Nat} (hpos : 0 < n) (h : n < 10) : digitChar n ≠ '0' := by
  interval_cases n <;> decide

/-- A number of at most two digits reads back, up to a character that is no digit (R61). -/
theorem readDecimal_decimalText {n : Nat} (h : n < 100) {c : Char} (hc : c.isDigit = false) (rest : List Char) :
    readDecimal (decimalText n ++ c :: rest) = some (n, c :: rest) := by
  unfold decimalText
  split
  case isTrue hlt =>
    obtain ⟨hdigit, hvalue⟩ := digitChar_read hlt
    simp [readDecimal, hdigit, hvalue, hc]
  case isFalse hge =>
    obtain ⟨htens, htensValue⟩ := digitChar_read (n := n / 10) (by omega)
    obtain ⟨hones, honesValue⟩ := digitChar_read (n := n % 10) (by omega)
    have hlead : digitChar (n / 10) ≠ '0' := digitChar_ne_zero (by omega) (by omega)
    simp [readDecimal, htens, htensValue, hones, honesValue, hlead, Nat.div_add_mod]

/-- An arrangement reads back, and no arrangement listed before it fits its text (R62, R63). -/
theorem readOneOf_arrangementText (t : Arrangement) (rest : List Char) :
    readOneOf [.b8, .b16, .d1, .d2, .h8, .q1] (arrangementText t ++ rest) = some (t, rest) := by
  cases t <;> rfl

/-- An operand reads back (R59, R61). -/
theorem readOperand_operandText {i : Nat} (h : i < 32) (t : Arrangement) (rest : List Char) :
    readOperand (operandText i t ++ rest) = some ((i, t), rest) := by
  have hdecimal := readDecimal_decimalText (n := i) (by omega) (c := '.') rfl (arrangementText t ++ rest)
  simp [readOperand, operandText, readText, hdecimal, readOneOf_arrangementText]

/-- A printed comma is read, and the operand after it is left whole. -/
theorem readComma_operandText (i : Nat) (t : Arrangement) (rest : List Char) :
    readComma (',' :: ' ' :: (operandText i t ++ rest)) = some (operandText i t ++ rest) := rfl

/-- A printed mnemonic is read with its `2`, and the operand after it is left whole (R60). -/
theorem readMnemonic_operandText (two : Bool) (i : Nat) (t : Arrangement) (rest : List Char) :
    readMnemonic (['P', 'M', 'U', 'L', 'L'] ++ ((if two then ['2'] else []) ++ ' ' :: (operandText i t ++ rest))) =
      some (two, operandText i t ++ rest) := by
  cases two <;> rfl

/-- The printed text, bracketed in the order in which it is read (R59). -/
theorem spellingText_eq (t : Spelling) :
    spellingText t =
      ['P', 'M', 'U', 'L', 'L'] ++ ((if t.two then ['2'] else []) ++ ' ' :: (operandText t.vd t.ta ++
        ',' :: ' ' :: (operandText t.vn t.tbn ++ ',' :: ' ' :: (operandText t.vm t.tbm ++ [])))) := by
  simp [spellingText]

/-- Settles O10: the mnemonic, the three operands and the commas between them read back one after the other. -/
theorem printedTextReadsBack : Obligations.PrintedTextReadsBack := by
  intro t hd hn hm
  have hstart : ∀ cs, skipBlanks (['P', 'M', 'U', 'L', 'L'] ++ cs) = ['P', 'M', 'U', 'L', 'L'] ++ cs := fun _ => rfl
  have hend : skipBlanks [] = [] := rfl
  simp only [readSpelling, spellingText_eq, hstart, readMnemonic_operandText, readOperand_operandText hd,
    readComma_operandText, readOperand_operandText hn, readOperand_operandText hm, hend, if_true]

end Sys2Proof.Machine

end

/-! PROOFS. The laws of the product (R75): each is a fact about polynomials over the integers modulo 2, which a
bitstring determines and is determined by. -/

section

namespace Sys2Proof.Machine

open Polynomial

/-- A bit is 1 exactly when the coefficient is. -/
theorem getLsbD_eq_decide_coeff_polyOf {n : Nat} (a : BitVec n) (i : Nat) :
    a.getLsbD i = decide ((polyOf a).coeff i = 1) := by
  cases h : a.getLsbD i <;> simp [coeff_polyOf, h]

/-- A bitstring is determined by its polynomial. -/
theorem polyOf_injective {n : Nat} : Function.Injective (polyOf : BitVec n → (ZMod 2)[X]) := by
  intro a b h
  refine BitVec.eq_of_getLsbD_eq fun i _ => ?_
  rw [getLsbD_eq_decide_coeff_polyOf, getLsbD_eq_decide_coeff_polyOf, h]

theorem polyOf_eq_zero_iff {n : Nat} {a : BitVec n} : polyOf a = 0 ↔ a = 0#n := by
  rw [← polyOf_zero n, polyOf_injective.eq_iff]

/-- A single 1 at position `k` stands for `x^k`. -/
theorem polyOf_one_shiftLeft {n k : Nat} (hk : k < n) : polyOf (1#n <<< k) = X ^ k := by
  ext i
  rw [coeff_polyOf, coeff_X_pow, ← BitVec.twoPow_eq, BitVec.getLsbD_twoPow]
  simp [hk, eq_comm]

/-- R75 law 5: the order of the operands does not matter. -/
theorem polynomialMult_comm {E : Nat} (a b : BitVec E) : polynomialMult a b = polynomialMult b a := by
  apply polyOf_injective
  rw [polynomialMultIsThePolynomialProduct, polynomialMultIsThePolynomialProduct, mul_comm]

/-- R75 law 9: a product is zero exactly when an operand is. -/
theorem polynomialMult_eq_zero_iff {M N : Nat} {a : BitVec M} {b : BitVec N} :
    polynomialMult a b = 0#(M + N) ↔ a = 0#M ∨ b = 0#N := by
  rw [← polyOf_eq_zero_iff, polynomialMultIsThePolynomialProduct, mul_eq_zero, polyOf_eq_zero_iff, polyOf_eq_zero_iff]

/-- R75 law 6: multiplying by `x^k` shifts by `k`. -/
theorem polynomialMult_one_shiftLeft {E k : Nat} (a : BitVec E) (hk : k < E) :
    polynomialMult a (1#E <<< k) = a.setWidth (E + E) <<< k := by
  apply polyOf_injective
  rw [polynomialMultIsThePolynomialProduct, polyOf_one_shiftLeft hk, polyOf_setWidth_shiftLeft a (by omega), mul_comm]

/-- R75 law 4, which law 6 has as its case `k = 0` where there is a bit to shift. -/
theorem polynomialMult_one {E : Nat} (a : BitVec E) : polynomialMult a 1#E = a.setWidth (E + E) := by
  cases E with
  | zero => exact Subsingleton.elim (α := BitVec 0) _ _
  | succ n => simpa using polynomialMult_one_shiftLeft a n.succ_pos

/-- Settles O14: a zero operand makes the product zero, `1` is `x^0`, and polynomials commute. -/
theorem productZeroOneCommutes : Obligations.ProductZeroOneCommutes :=
  fun _ a b => ⟨polynomialMult_eq_zero_iff.mpr (.inr rfl), polynomialMult_eq_zero_iff.mpr (.inl rfl),
    polynomialMult_one a, (polynomialMult_comm _ a).trans (polynomialMult_one a), polynomialMult_comm a b⟩

/-- Settles O15: the power of x shifts, and the product is wide enough for every bit shifted. -/
theorem productWithPowerOfX : Obligations.ProductWithPowerOfX := by
  intro E a k hk
  refine ⟨polynomialMult_one_shiftLeft a hk, fun j hj => ?_⟩
  rw [polynomialMult_one_shiftLeft a hk, BitVec.getLsbD_shiftLeft, BitVec.getLsbD_setWidth]
  simp [show j + k < E + E by omega, show j < E + E by omega]

/-- Settles O16: exclusive or is the addition of polynomials, over which their product distributes. -/
theorem productDistributesOverXor : Obligations.ProductDistributesOverXor := by
  intro E a b c
  constructor <;> apply polyOf_injective
  · simp only [polynomialMultIsThePolynomialProduct _ _ _ _, polyOf_xor, add_mul]
  · simp only [polynomialMultIsThePolynomialProduct _ _ _ _, polyOf_xor, mul_add]

/-- Modulo 2, squaring a polynomial doubles the exponents. -/
theorem polyOf_polynomialMult_self {E : Nat} (a : BitVec E) :
    polyOf (polynomialMult a a) = expand (ZMod 2) 2 (polyOf a) := by
  rw [polynomialMultIsThePolynomialProduct, ZMod.expand_card, sq]

/-- Settles O17: the square is the polynomial with its exponents doubled, which has no odd one. -/
theorem squareInterleavesZeros : Obligations.SquareInterleavesZeros := by
  intro E a i _
  have hbit : ∀ k, (polynomialMult a a).getLsbD k = decide ((expand (ZMod 2) 2 (polyOf a)).coeff k = 1) := by
    intro k
    rw [getLsbD_eq_decide_coeff_polyOf, polyOf_polynomialMult_self]
  constructor
  · rw [hbit, coeff_expand_mul' two_pos, getLsbD_eq_decide_coeff_polyOf a]
  · rw [hbit, coeff_expand two_pos, if_neg (by omega)]
    rfl

/-- The degree is the position of the highest set bit. -/
theorem natDegree_polyOf {n : Nat} {a : BitVec n} (h : a ≠ 0#n) : (polyOf a).natDegree = a.toNat.log2 := by
  have hne : a.toNat ≠ 0 := fun h0 => h (BitVec.eq_of_toNat_eq h0)
  apply natDegree_eq_of_le_of_coeff_ne_zero
  · refine natDegree_le_iff_coeff_eq_zero.mpr fun i hi => ?_
    have hbit : a.getLsbD i = false := by
      rw [← BitVec.testBit_toNat]
      exact Nat.testBit_lt_two_pow ((Nat.log2_lt hne).mp hi)
    simp [coeff_polyOf, hbit]
  · have hbit : a.getLsbD a.toNat.log2 = true := by rw [← BitVec.testBit_toNat, Nat.testBit_log2 hne]
    simp [coeff_polyOf, hbit]

/-- Settles O18: polynomials over a field have no zero divisors, and their degrees add. -/
theorem productHasNoZeroDivisors : Obligations.ProductHasNoZeroDivisors := by
  intro E a b ha hb
  have hab : polynomialMult a b ≠ 0#(E + E) := fun h => (polynomialMult_eq_zero_iff.mp h).elim ha hb
  refine ⟨hab, ?_⟩
  rw [← natDegree_polyOf hab, polynomialMultIsThePolynomialProduct,
    natDegree_mul (mt polyOf_eq_zero_iff.mp ha) (mt polyOf_eq_zero_iff.mp hb), natDegree_polyOf ha, natDegree_polyOf hb]

end Sys2Proof.Machine

end

/-! PROOFS. The product beside the integer product (R75 law 10): a column of the integer product counts the pairs of set
bits that meet in it, a column of the carry-less one keeps the parity of the count. -/

section

namespace Sys2Proof.Machine

theorem mod_two_pow_eq_sum_testBit (x n : Nat) :
    x % 2 ^ n = ∑ i ∈ Finset.range n, if x.testBit i then 2 ^ i else 0 := by
  induction n with
  | zero => simp [Nat.mod_one]
  | succ n ih =>
    rw [Finset.sum_range_succ, ← ih, Nat.mod_pow_succ, ← Nat.toNat_testBit]
    cases x.testBit n <;> simp

/-- `UInt` of a bitstring as the sum of the powers of 2 at its set bits (R9). -/
theorem toNat_eq_sum_getLsbD {n : Nat} (a : BitVec n) :
    a.toNat = ∑ i ∈ Finset.range n, if a.getLsbD i then 2 ^ i else 0 := by
  simp only [← BitVec.testBit_toNat, ← mod_two_pow_eq_sum_testBit, Nat.mod_eq_of_lt a.isLt]

theorem mem_bitPairs {M N : Nat} {op1 : BitVec M} {op2 : BitVec N} {k : Nat} {p : Nat × Nat} :
    p ∈ bitPairs op1 op2 k ↔ p.1 + p.2 = k ∧ op1.getLsbD p.1 = true ∧ op2.getLsbD p.2 = true := by
  simp only [bitPairs, Finset.mem_filter, Finset.mem_product, Finset.mem_range, and_iff_right_iff_imp]
  exact fun ⟨_, h1, h2⟩ => ⟨BitVec.lt_of_getLsbD h1, BitVec.lt_of_getLsbD h2⟩

/-- Column `k` of the integer product holds as many ones as there are pairs of set bits at positions adding up to `k`. -/
theorem toNat_mul_toNat_eq_sum {M N : Nat} (op1 : BitVec M) (op2 : BitVec N) :
    op1.toNat * op2.toNat = ∑ k ∈ Finset.range (M + N), (bitPairs op1 op2 k).card * 2 ^ k := by
  have hcolumn : ∀ p ∈ Finset.range M ×ˢ Finset.range N, p.1 + p.2 ∈ Finset.range (M + N) := by
    simp only [Finset.mem_product, Finset.mem_range]
    omega
  rw [toNat_eq_sum_getLsbD op1, toNat_eq_sum_getLsbD op2, Finset.sum_mul_sum, ← Finset.sum_product',
    ← Finset.sum_fiberwise_of_maps_to hcolumn]
  refine Finset.sum_congr rfl fun k _ => ?_
  rw [bitPairs, ← Finset.filter_filter, Finset.card_filter, Finset.sum_mul]
  refine Finset.sum_congr rfl fun p hp => ?_
  rw [← (Finset.mem_filter.mp hp).2, pow_add]
  cases op1.getLsbD p.1 <;> cases op2.getLsbD p.2 <;> simp

/-- Column `k` of the carry-less product holds the parity of that number. -/
theorem toNat_polynomialMult_eq_sum {M N : Nat} (op1 : BitVec M) (op2 : BitVec N) :
    (polynomialMult op1 op2).toNat = ∑ k ∈ Finset.range (M + N), (bitPairs op1 op2 k).card % 2 * 2 ^ k := by
  rw [toNat_eq_sum_getLsbD]
  refine Finset.sum_congr rfl fun k _ => ?_
  rw [getLsbD_polynomialMult]
  obtain h | h := Nat.mod_two_eq_zero_or_one (bitPairs op1 op2 k).card <;> simp [h]

/-- The two products agree exactly when no column needs a carry. -/
theorem toNat_polynomialMult_eq_mul_iff {M N : Nat} (op1 : BitVec M) (op2 : BitVec N) :
    (polynomialMult op1 op2).toNat = op1.toNat * op2.toNat ↔ ∀ k < M + N, (bitPairs op1 op2 k).card ≤ 1 := by
  rw [toNat_mul_toNat_eq_sum, toNat_polynomialMult_eq_sum,
    Finset.sum_eq_sum_iff_of_le fun k _ => Nat.mul_le_mul_right _ (Nat.mod_le _ 2)]
  simp only [Finset.mem_range, Nat.mul_left_inj (Nat.two_pow_pos _).ne']
  refine forall₂_congr fun k _ => ?_
  omega

/-- A partial product has a 1 in column `k` exactly for a pair of set bits that meets there. -/
theorem getLsbD_partialProduct {E i k : Nat} (b : BitVec E) (hi : i < E) :
    (b.setWidth (E + E) <<< i).getLsbD k = true ↔ i ≤ k ∧ b.getLsbD (k - i) = true := by
  rw [BitVec.getLsbD_shiftLeft, BitVec.getLsbD_setWidth]
  simp only [Bool.and_eq_true, decide_eq_true_eq, Bool.not_eq_true', decide_eq_false_iff_not]
  constructor
  · rintro ⟨⟨-, hik⟩, -, hbit⟩
    exact ⟨by omega, hbit⟩
  · rintro ⟨hik, hbit⟩
    have hlt := BitVec.lt_of_getLsbD hbit
    exact ⟨⟨by omega, by omega⟩, by omega, hbit⟩

/-- Two partial products, for set bits `i` and `j` of `a`, have a 1 in one column exactly when two pairs meet in it. -/
theorem partialProducts_disjoint_iff {E : Nat} (a b : BitVec E) :
    (∀ i j, i < j → j < E → a.getLsbD i = true → a.getLsbD j = true →
        (b.setWidth (E + E) <<< i) &&& (b.setWidth (E + E) <<< j) = 0#(E + E)) ↔
      ∀ k < E + E, (bitPairs a b k).card ≤ 1 := by
  constructor
  · intro hdisjoint k hk
    -- Of two pairs in one column, the one with the lower bit of `a` is the lower partial product.
    have hnot : ∀ p ∈ bitPairs a b k, ∀ q ∈ bitPairs a b k, ¬ p.1 < q.1 := by
      rintro ⟨i, i'⟩ hp ⟨j, j'⟩ hq (hij : i < j)
      obtain ⟨rfl, hai, hbi⟩ := mem_bitPairs.mp hp
      obtain ⟨hsum, haj, hbj⟩ := mem_bitPairs.mp hq
      have hj : j < E := BitVec.lt_of_getLsbD haj
      have hlower : (b.setWidth (E + E) <<< i).getLsbD (i + i') = true :=
        (getLsbD_partialProduct b (hij.trans hj)).mpr ⟨by omega, by simpa using hbi⟩
      have hupper : (b.setWidth (E + E) <<< j).getLsbD (i + i') = true :=
        (getLsbD_partialProduct b hj).mpr ⟨by omega, by simpa [← hsum] using hbj⟩
      have hbit := congrArg (·.getLsbD (i + i')) (hdisjoint i j hij hj hai haj)
      simp [-BitVec.getLsbD_shiftLeft, hlower, hupper] at hbit
    refine Finset.card_le_one.mpr fun p hp q hq => ?_
    have hp1 := hnot p hp q hq
    have hq1 := hnot q hq p hp
    obtain ⟨hpsum, -⟩ := mem_bitPairs.mp hp
    obtain ⟨hqsum, -⟩ := mem_bitPairs.mp hq
    exact Prod.ext (by omega) (by omega)
  · intro hcard i j hij hj hai haj
    refine BitVec.eq_of_getLsbD_eq fun k hk => ?_
    rw [BitVec.getLsbD_and, BitVec.getLsbD_zero, ← Bool.not_eq_true, Bool.and_eq_true,
      getLsbD_partialProduct b (hij.trans hj), getLsbD_partialProduct b hj]
    rintro ⟨⟨hik, hbi⟩, ⟨hjk, hbj⟩⟩
    have hpair : (i, k - i) = (j, k - j) :=
      Finset.card_le_one.mp (hcard k hk) _ (mem_bitPairs.mpr ⟨by omega, hai, hbi⟩) _
        (mem_bitPairs.mpr ⟨by omega, haj, hbj⟩)
    exact hij.ne (Prod.ext_iff.mp hpair).1

/-- Settles O19: both say that no column of the two products needs a carry. -/
theorem integerProductOnlyWithoutCarries : Obligations.IntegerProductOnlyWithoutCarries :=
  fun _ a b => (toNat_polynomialMult_eq_mul_iff a b).trans (partialProducts_disjoint_iff a b).symm

end Sys2Proof.Machine

end

/-! PROOFS. The lane loop (R10, R11, R67, R68): element `e` of the result is the product of elements `e` of the operands,
and there is no other bit in it. -/

section

namespace Sys2Proof.Machine

/-- Reading the element just written gives the value (R10, R11). -/
theorem elem_setElem_self {N size e : Nat} (vector : BitVec N) (value : BitVec size) (h : (e + 1) * size ≤ N) :
    elem (setElem vector e value) e size = value := by
  refine BitVec.eq_of_getLsbD_eq fun j hj => ?_
  have hlast : (e + 1) * size = e * size + size := Nat.succ_mul e size
  rw [getLsbD_elem _ e hj, getLsbD_setElem _ e value (by omega), if_pos (by omega), Nat.add_sub_cancel_left]

/-- Writing one element keeps every other. -/
theorem elem_setElem_other {N size e e' : Nat} (vector : BitVec N) (value : BitVec size) (hne : e ≠ e')
    (h : (e' + 1) * size ≤ N) : elem (setElem vector e value) e' size = elem vector e' size := by
  refine BitVec.eq_of_getLsbD_eq fun j hj => ?_
  have hlast : (e' + 1) * size = e' * size + size := Nat.succ_mul e' size
  have houtside : ¬ (e * size ≤ e' * size + j ∧ e' * size + j < (e + 1) * size) := by
    obtain hlt | hgt := hne.lt_or_gt
    · have := Nat.mul_le_mul_right size (show e + 1 ≤ e' from hlt)
      omega
    · have := Nat.mul_le_mul_right size (show e' + 1 ≤ e from hgt)
      omega
  rw [getLsbD_elem _ e' hj, getLsbD_elem _ e' hj, getLsbD_setElem _ e value (by omega), if_neg houtside]

/-- A bitstring that elements fill is determined by them. -/
theorem eq_of_elem_eq {N size k : Nat} {v w : BitVec N} (hsize : 0 < size) (hN : N = k * size)
    (h : ∀ e < k, elem v e size = elem w e size) : v = w := by
  refine BitVec.eq_of_getLsbD_eq fun i hi => ?_
  have he : i / size < k := Nat.div_lt_of_lt_mul (by rwa [Nat.mul_comm, ← hN])
  have hj : i % size < size := Nat.mod_lt i hsize
  rw [← Nat.div_add_mod' i size, ← getLsbD_elem v _ hj, h _ he, getLsbD_elem w _ hj]

/-- After `k` iterations the first `k` elements of the result are the products, whatever it held before (R67). -/
theorem elem_productLanes {esize k e : Nat} (before : BitVec 128) (operand1 operand2 : BitVec 64)
    (hk : k * (esize + esize) ≤ 128) (he : e < k) :
    elem (productLanes esize before operand1 operand2 k) e (esize + esize) =
      polynomialMult (elem operand1 e esize) (elem operand2 e esize) := by
  induction k with
  | zero => omega
  | succ k ih =>
    rw [productLanes]
    obtain hlt | rfl := Nat.lt_succ_iff_lt_or_eq.mp he
    · have hprefix : (e + 1) * (esize + esize) ≤ k * (esize + esize) := Nat.mul_le_mul_right _ hlt
      have hstep : k * (esize + esize) ≤ (k + 1) * (esize + esize) := Nat.mul_le_mul_right _ k.le_succ
      rw [elem_setElem_other _ _ hlt.ne' (by omega), ih (by omega) hlt]
    · exact elem_setElem_self _ _ hk

/-- Where the products fill the result, nothing of what it held before the loop is left (R68). -/
theorem productLanes_before_irrelevant {esize elements : Nat} (hesize : 0 < esize)
    (hfill : 128 = elements * (esize + esize)) (before before' : BitVec 128) (operand1 operand2 : BitVec 64) :
    productLanes esize before operand1 operand2 elements = productLanes esize before' operand1 operand2 elements := by
  refine eq_of_elem_eq (size := esize + esize) (by omega) hfill fun e he => ?_
  rw [elem_productLanes _ _ _ hfill.ge he, elem_productLanes _ _ _ hfill.ge he]

/-- One 64-bit lane is the product of the operands whole. -/
theorem productLanes_one (before : BitVec 128) (operand1 operand2 : BitVec 64) :
    productLanes 64 before operand1 operand2 1 = polynomialMult operand1 operand2 := by
  have hlane := elem_productLanes (esize := 64) (k := 1) (e := 0) before operand1 operand2 (by decide) (by decide)
  simpa [elem] using hlane

/-- The loop gives the same with its operands exchanged. -/
theorem productLanes_comm (esize : Nat) (before : BitVec 128) (operand1 operand2 : BitVec 64) (k : Nat) :
    productLanes esize before operand1 operand2 k = productLanes esize before operand2 operand1 k := by
  induction k with
  | zero => rfl
  | succ k ih => rw [productLanes, productLanes, ih, polynomialMult_comm]

/-- The recursion of the model is the page's `for` loop (R67). -/
theorem productLanes_eq_referenceLoop (esize elements : Nat) (operand1 operand2 : BitVec 64) :
    productLanes esize 0#128 operand1 operand2 elements = referenceLoop esize elements operand1 operand2 := by
  rw [referenceLoop]
  induction elements with
  | zero => rfl
  | succ k ih => rw [List.range_succ, List.foldl_append, ← ih]; rfl

/-- Settles O27: eight 16-bit products fill the result, and so does one 128-bit product. -/
theorem unassignedResultNotObservable : Obligations.UnassignedResultNotObservable :=
  fun before before' operand1 operand2 =>
    ⟨productLanes_before_irrelevant (by decide) (by decide) before before' operand1 operand2,
      productLanes_before_irrelevant (by decide) (by decide) before before' operand1 operand2⟩

end Sys2Proof.Machine

end

/-! PROOFS. What the four instructions write (R69 to R72), and what follows from the laws of the product (R75, R76). -/

section

namespace Sys2Proof.Machine

/-! The value written, as the laws of the lanes have it -/

/-- Element `e` of the value written is the product of elements `e` of the halves read. -/
theorem elem_lanesOf {esize elements e : Nat} (part : Half) (n m : VReg) (s : State)
    (hfit : elements * (esize + esize) ≤ 128) (he : e < elements) :
    elem (lanesOf part esize elements n m s) e (esize + esize) =
      polynomialMult (elem (s.vpart n part) e esize) (elem (s.vpart m part) e esize) :=
  elem_productLanes _ _ _ hfit he

/-- The one 64-bit lane is the product of the halves read. -/
theorem lanesOf_one (part : Half) (n m : VReg) (s : State) :
    lanesOf part 64 1 n m s = polynomialMult (s.vpart n part) (s.vpart m part) :=
  productLanes_one _ _ _

theorem lanesOf_comm (part : Half) (esize elements : Nat) (n m : VReg) (s : State) :
    lanesOf part esize elements n m s = lanesOf part esize elements m n s :=
  productLanes_comm _ _ _ _ _

/-- Byte `e` of the lower half is byte `e` of the register (R10, R25). -/
theorem elem_vpart_lower (s : State) (n : VReg) {e : Nat} (he : e < 8) :
    elem (s.vpart n .lower) e 8 = s.v[n].extractLsb' (8 * e) 8 := by
  refine BitVec.eq_of_getLsbD_eq fun j hj => ?_
  rw [getLsbD_elem _ e hj, s.getLsbD_vpart_lower n (by omega), BitVec.getLsbD_extractLsb', Nat.mul_comm]
  simp [hj]

/-- Byte `e` of the upper half is byte `8 + e` of the register (R10, R25). -/
theorem elem_vpart_upper (s : State) (n : VReg) {e : Nat} (he : e < 8) :
    elem (s.vpart n .upper) e 8 = s.v[n].extractLsb' (64 + 8 * e) 8 := by
  refine BitVec.eq_of_getLsbD_eq fun j hj => ?_
  rw [getLsbD_elem _ e hj, s.getLsbD_vpart_upper n (by omega), BitVec.getLsbD_extractLsb', Nat.mul_comm, Nat.add_assoc]
  simp [hj]

/-- Halfword `e` of the eight-lane value, at its place in the register. -/
theorem extractLsb'_lanesOf (part : Half) (n m : VReg) (s : State) {e : Nat} (he : e < 8) :
    (lanesOf part 8 8 n m s).extractLsb' (16 * e) 16 =
      polynomialMult (elem (s.vpart n part) e 8) (elem (s.vpart m part) e 8) := by
  rw [Nat.mul_comm]
  exact elem_lanesOf part n m s (by decide) he

/-! Rows 3 and 4 where the implementation has them (R54) -/

theorem exec_pmullD1_of_have {s : State} (h : s.params.havePmull64 = true) (d n m : VReg) :
    exec (.pmullD1 d n m) s = polynomialMultiplyLong (encode (.pmullD1 d n m)) .lower 64 1 d n m s :=
  polynomialMultiplyLong64_of_have h _ _ d n m

theorem exec_pmull2D2_of_have {s : State} (h : s.params.havePmull64 = true) (d n m : VReg) :
    exec (.pmull2D2 d n m) s = polynomialMultiplyLong (encode (.pmull2D2 d n m)) .upper 64 1 d n m s :=
  polynomialMultiplyLong64_of_have h _ _ d n m

/-- Settles O22: the eight lanes are the products of the bytes of the lower halves. -/
theorem pmullB8Completes : Obligations.PmullB8Completes := by
  intro d n m s hc hlt
  refine ⟨lanesOf .lower 8 8 n m s, polynomialMultiplyLong_of_enabled_of_lt hc hlt _ _ _ _ d n m, fun e he => ?_⟩
  rw [extractLsb'_lanesOf .lower n m s he, elem_vpart_lower s n he, elem_vpart_lower s m he]

/-- Settles O23: the eight lanes are the products of the bytes of the upper halves. -/
theorem pmull2B16Completes : Obligations.Pmull2B16Completes := by
  intro d n m s hc hlt
  refine ⟨lanesOf .upper 8 8 n m s, polynomialMultiplyLong_of_enabled_of_lt hc hlt _ _ _ _ d n m, fun e he => ?_⟩
  rw [extractLsb'_lanesOf .upper n m s he, elem_vpart_upper s n he, elem_vpart_upper s m he]

/-- Settles O24: the one lane is the product of the lower halves. -/
theorem pmullD1Completes : Obligations.PmullD1Completes := by
  intro d n m s hhave hc hlt
  rw [exec_pmullD1_of_have hhave, polynomialMultiplyLong_of_enabled_of_lt hc hlt, lanesOf_one]
  rfl

/-- Settles O25: the one lane is the product of the upper halves. -/
theorem pmull2D2Completes : Obligations.Pmull2D2Completes := by
  intro d n m s hhave hc hlt
  rw [exec_pmull2D2_of_have hhave, polynomialMultiplyLong_of_enabled_of_lt hc hlt, lanesOf_one]
  rfl

/-! Corner cases of the results (R69 to R72) -/

/-- What the destination holds after the shared operation. -/
theorem polynomialMultiplyLong_next_dest {s t : State} {word : Word} {part : Half} {esize elements : Nat} {d n m : VReg}
    (h : polynomialMultiplyLong word part esize elements d n m s = .next t) :
    t.v[d] = lanesOf part esize elements n m s := by
  obtain ⟨-, -, rfl⟩ := polynomialMultiplyLong_next h
  simp

/-- R75 law 2: the product of two bitstrings of one width leaves the top bit 0. -/
theorem getLsbD_polynomialMult_top {E : Nat} (a b : BitVec E) (hE : 0 < E) :
    (polynomialMult a b).getLsbD (E + E - 1) = false :=
  (polynomialMultIsTheCarrylessSum E E a b).2.2 rfl hE

/-- The top bit of each of the eight halfwords is 0. -/
theorem getLsbD_lanesOf_top (part : Half) (n m : VReg) (s : State) {e : Nat} (he : e < 8) :
    (lanesOf part 8 8 n m s).getLsbD (16 * e + 15) = false := by
  have helem := elem_lanesOf (esize := 8) part n m s (by decide) he
  rw [Nat.mul_comm, ← getLsbD_elem (size := 8 + 8) _ e (by decide), helem]
  exact getLsbD_polynomialMult_top _ _ (by decide)

/-- The 128-bit product: its top bit is 0, and it is zero exactly when a half read is. -/
theorem lanesOf_one_corners (part : Half) (n m : VReg) (s : State) :
    (lanesOf part 64 1 n m s).getLsbD 127 = false ∧
      (lanesOf part 64 1 n m s = 0#128 ↔ s.vpart n part = 0#64 ∨ s.vpart m part = 0#64) := by
  rw [lanesOf_one]
  exact ⟨getLsbD_polynomialMult_top _ _ (by decide), polynomialMult_eq_zero_iff⟩

/-- Settles O26: the register written is the lanes, whose corner cases are those of the product. -/
theorem resultTopBitsAndZero : Obligations.ResultTopBitsAndZero := by
  intro d n m s t
  refine ⟨?halfwords, ?lower, ?upper⟩
  case halfwords =>
    rintro (h | h) e he
    · rw [polynomialMultiplyLong_next_dest h, getLsbD_lanesOf_top .lower n m s he]
    · rw [polynomialMultiplyLong_next_dest h, getLsbD_lanesOf_top .upper n m s he]
  case lower =>
    intro h
    have hhave : s.params.havePmull64 = true := by simpa [undefinedIn] using undefinedIn_of_exec_next h
    rw [polynomialMultiplyLong_next_dest ((exec_pmullD1_of_have hhave d n m).symm.trans h)]
    exact lanesOf_one_corners .lower n m s
  case upper =>
    intro h
    have hhave : s.params.havePmull64 = true := by simpa [undefinedIn] using undefinedIn_of_exec_next h
    rw [polynomialMultiplyLong_next_dest ((exec_pmull2D2_of_have hhave d n m).symm.trans h)]
    exact lanesOf_one_corners .upper n m s

/-! Exchanging the sources, and the two halves (R75 law 5, R76) -/

/-- Where access is enabled neither the word nor the order of the sources matters. -/
theorem polynomialMultiplyLong_comm_of_enabled {s : State} (hc : s.checkFPAdvSIMDEnabled64 = .enabled)
    (word word' : Word) (part : Half) (esize elements : Nat) (d n m : VReg) :
    polynomialMultiplyLong word part esize elements d n m s =
      polynomialMultiplyLong word' part esize elements d m n s := by
  rw [polynomialMultiplyLong_of_enabled hc, polynomialMultiplyLong_of_enabled hc, lanesOf_comm]

/-- Settles O28: the four are the shared operation, whose word only a trap records. -/
theorem swappingSourcesChangesNothing : Obligations.SwappingSourcesChangesNothing := by
  intro d n m s hc
  refine ⟨polynomialMultiplyLong_comm_of_enabled hc _ _ _ _ _ d n m,
    polynomialMultiplyLong_comm_of_enabled hc _ _ _ _ _ d n m, fun hhave => ⟨?lower, ?upper⟩⟩
  case lower =>
    rw [exec_pmullD1_of_have hhave, exec_pmullD1_of_have hhave]
    exact polynomialMultiplyLong_comm_of_enabled hc _ _ _ _ _ d n m
  case upper =>
    rw [exec_pmull2D2_of_have hhave, exec_pmull2D2_of_have hhave]
    exact polynomialMultiplyLong_comm_of_enabled hc _ _ _ _ _ d n m

/-- The shared operation completes with one value wherever the halves read are equal. -/
theorem polynomialMultiplyLong_same_result {s t : State} {part part' : Half} {n m n' m' : VReg}
    (hcs : s.checkFPAdvSIMDEnabled64 = .enabled) (hct : t.checkFPAdvSIMDEnabled64 = .enabled)
    (hls : s.pc.toNat + 4 < 2 ^ 64) (hlt : t.pc.toNat + 4 < 2 ^ 64)
    (hn : t.vpart n' part' = s.vpart n part) (hm : t.vpart m' part' = s.vpart m part)
    (word word' : Word) (esize elements : Nat) (d d' : VReg) :
    ∃ r : BitVec 128,
      polynomialMultiplyLong word part esize elements d n m s = .next ((s.writeV d r).setPc (s.pc + 4#64)) ∧
        polynomialMultiplyLong word' part' esize elements d' n' m' t = .next ((t.writeV d' r).setPc (t.pc + 4#64)) := by
  refine ⟨lanesOf part esize elements n m s, polynomialMultiplyLong_of_enabled_of_lt hcs hls .., ?_⟩
  rw [polynomialMultiplyLong_of_enabled_of_lt hct hlt, lanesOf, lanesOf, hn, hm]

/-- Settles O29: both forms are the shared operation at one element size, on halves that are equal. -/
theorem upperFormIsLowerFormOnOtherHalf : Obligations.UpperFormIsLowerFormOnOtherHalf := by
  intro d n m d' n' m' s t hcs hct hls hlt hn hm
  have hsame := fun word word' esize elements => polynomialMultiplyLong_same_result (part := .upper) (part' := .lower)
    hcs hct hls hlt hn hm word word' esize elements d d'
  refine ⟨hsame _ _ 8 8, fun hs ht => ?_⟩
  rw [exec_pmull2D2_of_have hs, exec_pmullD1_of_have ht]
  exact hsame _ _ 64 1

/-! The page's pseudocode (R67) -/

/-- A word of a reserved size, or of size 11 without the feature, is UNDEFINED on the page (R53, R54). -/
theorem referenceStep_of_undefined {w : Word} {s : State}
    (h : (fieldsOf w).size = 0b01#2 ∨ (fieldsOf w).size = 0b10#2 ∨
      ((fieldsOf w).size = 0b11#2 ∧ s.params.havePmull64 = false)) :
    referenceStep w s = .fault (.undefined s.pc w) := by
  rw [← or_assoc] at h
  simp only [referenceStep]
  split
  · rfl
  · rename_i hreserved
    rw [if_pos (h.resolve_left hreserved)]

/-- Every other word is, on the page, the shared operation with the parameters that R52 takes from its fields. -/
theorem referenceStep_of_defined {w : Word} {s : State}
    (h : ¬ ((fieldsOf w).size = 0b01#2 ∨ (fieldsOf w).size = 0b10#2 ∨
      ((fieldsOf w).size = 0b11#2 ∧ s.params.havePmull64 = false))) :
    referenceStep w s =
      polynomialMultiplyLong w (partOf (fieldsOf w).q) (esizeOf (fieldsOf w).size)
        (elementsOf (esizeOf (fieldsOf w).size)) (regOf (fieldsOf w).rd) (regOf (fieldsOf w).rn)
        (regOf (fieldsOf w).rm) s := by
  rw [← or_assoc, not_or] at h
  simp only [referenceStep, if_neg h.1, if_neg h.2, ← productLanes_eq_referenceLoop]
  rfl

/-- An instruction that is not UNDEFINED is the shared operation with the parameters that R52 takes from its word. -/
theorem exec_eq_polynomialMultiplyLong_fields {i : Instr} {s : State} (h : undefinedIn s.params.havePmull64 i = false) :
    exec i s =
      polynomialMultiplyLong (encode i) (partOf (fieldsOf (encode i)).q) (esizeOf (fieldsOf (encode i)).size)
        (elementsOf (esizeOf (fieldsOf (encode i)).size)) (regOf (fieldsOf (encode i)).rd)
        (regOf (fieldsOf (encode i)).rn) (regOf (fieldsOf (encode i)).rm) s := by
  cases i with
  | pmullB8 d n m => simp only [encode, fieldsOf_encodeFields, regOf_bitsOfReg]; rfl
  | pmull2B16 d n m => simp only [encode, fieldsOf_encodeFields, regOf_bitsOfReg]; rfl
  | pmullD1 d n m =>
    rw [exec_pmullD1_of_have (by simpa [undefinedIn] using h)]
    simp only [encode, fieldsOf_encodeFields, regOf_bitsOfReg]
    rfl
  | pmull2D2 d n m =>
    rw [exec_pmull2D2_of_have (by simpa [undefinedIn] using h)]
    simp only [encode, fieldsOf_encodeFields, regOf_bitsOfReg]
    rfl
  | undefinedSize01 q d n m => cases h
  | undefinedSize10 q d n m => cases h
  | undefinedSize11 q d n m => cases h

/-- Settles O30: the word is that of its instruction; R52's tests on its size say whether that is UNDEFINED, and its
fields are the parameters of the shared operation. -/
theorem execFollowsThePseudocode : Obligations.ExecFollowsThePseudocode := by
  intro s w i hd
  obtain ⟨rfl, hwf⟩ := decode_eq_ok_iff.mp hd
  cases hu : undefinedIn s.params.havePmull64 i with
  | true => rw [exec_of_undefined hu, referenceStep_of_undefined ((undefinedIn_iff_size hwf).mp hu)]
  | false =>
    have hsize := (not_congr (undefinedIn_iff_size hwf)).mp (by simp [hu])
    rw [exec_eq_polynomialMultiplyLong_fields hu, referenceStep_of_defined hsize]

end Sys2Proof.Machine

end

/-! PROOFS. The usual enable check, test by test (R32, R84), and the trap where the check says so (R83). -/

section

namespace Sys2Proof.Machine

/-- FPEN is bit 21 above bit 20 (R32). -/
theorem fpenOf_eq_append (r : BitVec 64) :
    fpenOf r = BitVec.ofBool (r.getLsbD 21) ++ BitVec.ofBool (r.getLsbD 20) := by
  refine BitVec.eq_of_getLsbD_eq fun j hj => ?_
  rw [fpenOf, BitVec.getLsbD_extractLsb', BitVec.getLsbD_append]
  interval_cases j <;> simp

/-- The test of an FPEN field (R84): `11` lets pass, `01` traps under a condition of its own, `x0` traps. -/
theorem fpenTest_eq (r : BitVec 64) (target : HandlerEL) (trapOn01 : Prop) [Decidable trapOn01] :
    (if fpenOf r = 0b11#2 then none
      else if fpenOf r = 0b01#2 then if trapOn01 then some target else none
      else some target) =
    if r.getLsbD 20 = false ∨ (r.getLsbD 21 = false ∧ r.getLsbD 20 = true ∧ trapOn01) then some target else none := by
  rw [fpenOf_eq_append]
  cases r.getLsbD 21 <;> cases r.getLsbD 20 <;> simp

theorem el2Enabled_iff {p : Platform} {ss : SecurityState} : el2Enabled p ss = true ↔ ss ∈ p.el2EnabledIn :=
  List.contains_iff_mem

/-- Step 1 of R84 traps, to EL1, exactly for its reason. -/
theorem cpacrTrap_eq (p : Platform) (c : CheckInputs) [Decidable (cpacrReason p c)] :
    cpacrTrap p c = if cpacrReason p c then some .el1 else none := by
  rw [cpacrTrap, fpenTest_eq, ← ite_and]
  refine if_congr (and_congr_left' ?_) rfl rfl
  rw [← el2Enabled_iff]
  cases c.el <;> simp [or_iff_not_imp_left]

/-- Step 2 of R84 traps, to EL2, exactly for its reason. -/
theorem cptrEl2Trap_eq (p : Platform) (c : CheckInputs) [Decidable (cptrEl2Reason p c)] :
    cptrEl2Trap p c = if cptrEl2Reason p c then some .el2 else none := by
  have hbelow : (c.el != .el3 && el2Enabled p c.securityState) = true ↔
      c.el ≠ .el3 ∧ c.securityState ∈ p.el2EnabledIn := by
    rw [Bool.and_eq_true, bne_iff_ne, el2Enabled_iff]
  rw [cptrEl2Trap, fpenTest_eq, if_congr hbelow rfl rfl]
  cases he2h : p.hcrE2H <;> simp [cptrEl2Reason, he2h, tfpOf, ← ite_and, and_assoc]

/-- Step 3 of R84 traps, to EL3, exactly for its reason. -/
theorem cptrEl3Trap_eq (p : Platform) (c : CheckInputs) [Decidable (cptrEl3Reason p c)] :
    cptrEl3Trap p c = if cptrEl3Reason p c then some .el3 else none :=
  if_congr (Bool.and_eq_true _ _).to_iff rfl rfl

/-- The usual check is its three reasons, asked in their order. -/
theorem usualCheck_eq (p : Platform) (c : CheckInputs) [Decidable (cpacrReason p c)] [Decidable (cptrEl2Reason p c)]
    [Decidable (cptrEl3Reason p c)] :
    usualCheck p c =
      if cpacrReason p c then .trap .el1
      else if cptrEl2Reason p c then .trap .el2
      else if cptrEl3Reason p c then .trap .el3
      else .enabled := by
  rw [usualCheck, cpacrTrap_eq, cptrEl2Trap_eq, cptrEl3Trap_eq]
  split_ifs <;> rfl

theorem rankOf_le_of_cpacrReason {p : Platform} {c : CheckInputs} (h : cpacrReason p c) :
    rankOf c.el ≤ rankOf .el1 := by
  obtain ⟨hel | ⟨hel, -⟩, -⟩ := h <;> simp [hel, rankOf]

theorem rankOf_le_el2 {el : EL} (h : el ≠ .el3) : rankOf el ≤ rankOf .el2 := by
  revert h
  cases el <;> decide

theorem rankOf_le_el3 (el : EL) : rankOf el ≤ rankOf .el3 := by
  cases el <;> decide

/-- Settles O40: the reason of the first test that applies, of the three in their order, is the verdict. -/
theorem usualCheckTrapsUpward : Obligations.UsualCheckTrapsUpward := by
  classical
  intro p c
  rw [usualCheck_eq]
  by_cases h1 : cpacrReason p c
  · simpa [h1, levelOf] using rankOf_le_of_cpacrReason h1
  by_cases h2 : cptrEl2Reason p c
  · simpa [h1, h2, levelOf] using rankOf_le_el2 h2.1
  by_cases h3 : cptrEl3Reason p c
  · simpa [h1, h2, h3, levelOf] using rankOf_le_el3 c.el
  · simp [h1, h2, h3]

/-- Settles O38: it is the case of an instruction's outcomes in which the check answers `Trap`. -/
theorem trapWhenCheckSaysSo : Obligations.TrapWhenCheckSaysSo := fun _ _ _ => exec_of_trap

end Sys2Proof.Machine

end

/-! PROOFS. Exception entry and return beside the step (R82, R83, R89, R90). -/

section

namespace Sys2Proof.Machine

/-! Where a fault's exception is taken (R82, R83) -/

theorem State.tgeInEffect_iff {s : State} : s.tgeInEffect = true ↔ tgeTakesEl0 s := by
  rw [State.tgeInEffect, Bool.and_eq_true, el2Enabled_iff, tgeTakesEl0]

theorem State.trapRerouted_iff {s : State} {target : HandlerEL} :
    s.trapRerouted target = true ↔ target = .el1 ∧ s.pstate.el = .el0 ∧ tgeTakesEl0 s := by
  rw [State.trapRerouted, Bool.and_eq_true, Bool.and_eq_true, beq_iff_eq, beq_iff_eq, State.tgeInEffect_iff, and_assoc]

/-- From EL0 an Undefined exception goes to EL2 where TGE takes it, else to EL1. -/
theorem State.undefinedTarget_of_el0 {s : State} [Decidable (tgeTakesEl0 s)] (h : s.pstate.el = .el0) :
    s.undefinedTarget = if tgeTakesEl0 s then .el2 else .el1 := by
  rw [State.undefinedTarget, h]
  exact if_congr State.tgeInEffect_iff rfl rfl

/-- From a level that has a handler it goes to that level. -/
theorem State.undefinedTarget_of_levelOf (s : State) (x : HandlerEL) (h : s.pstate.el = levelOf x) :
    s.undefinedTarget = x := by
  rw [State.undefinedTarget, h]
  cases x <;> rfl

theorem State.entry_of_trapRerouted {s : State} {target : HandlerEL} (h : s.trapRerouted target = true)
    (pc : BitVec 64) (word : Word) :
    s.entryTarget (.fpAccessTrap target pc word) = .el2 ∧
      s.entrySyndrome (.fpAccessTrap target pc word) = 0x02000000#64 :=
  ⟨if_pos h, if_pos h⟩

theorem State.entry_of_not_trapRerouted {s : State} {target : HandlerEL} (h : ¬ s.trapRerouted target = true)
    (pc : BitVec 64) (word : Word) :
    s.entryTarget (.fpAccessTrap target pc word) = target ∧
      s.entrySyndrome (.fpAccessTrap target pc word) = 0x1FE00000#64 :=
  ⟨if_neg h, if_neg h⟩

/-! `takeException` (R89) -/

@[simp] theorem State.takeException_v (s : State) (f : Fault) : (s.takeException f).v = s.v := by simp [State.takeException]
@[simp] theorem State.takeException_x (s : State) (f : Fault) : (s.takeException f).x = s.x := by simp [State.takeException]
@[simp] theorem State.takeException_sp (s : State) (f : Fault) : (s.takeException f).sp = s.sp := by simp [State.takeException]
@[simp] theorem State.takeException_mem (s : State) (f : Fault) : (s.takeException f).mem = s.mem := by simp [State.takeException]
@[simp] theorem State.takeException_securityState (s : State) (f : Fault) : (s.takeException f).securityState = s.securityState := by simp [State.takeException]
@[simp] theorem State.takeException_cpacrEl1 (s : State) (f : Fault) : (s.takeException f).cpacrEl1 = s.cpacrEl1 := by simp [State.takeException]
@[simp] theorem State.takeException_cptrEl2 (s : State) (f : Fault) : (s.takeException f).cptrEl2 = s.cptrEl2 := by simp [State.takeException]
@[simp] theorem State.takeException_cptrEl3 (s : State) (f : Fault) : (s.takeException f).cptrEl3 = s.cptrEl3 := by simp [State.takeException]
@[simp] theorem State.takeException_idAa64isar0El1 (s : State) (f : Fault) : (s.takeException f).idAa64isar0El1 = s.idAa64isar0El1 := by simp [State.takeException]
@[simp] theorem State.takeException_params (s : State) (f : Fault) : (s.takeException f).params = s.params := by simp [State.takeException]

@[simp] theorem State.takeException_pstate (s : State) (f : Fault) :
    (s.takeException f).pstate = pstateOnEntry (s.entryTarget f) s.pstate := rfl

@[simp] theorem State.takeException_pc (s : State) (f : Fault) :
    (s.takeException f).pc = (s.bank (s.entryTarget f)).vbar + vectorOffset s.pstate (s.entryTarget f) := rfl

theorem State.takeException_bank_other {s : State} {f : Fault} {y : HandlerEL} (h : y ≠ s.entryTarget f) :
    (s.takeException f).bank y = s.bank y := by
  simp [State.takeException, State.bank_setBank_other _ _ _ _ h]

/-- Settles O42: the routing of each fault, then the saved bank and the fields of the state after entry. -/
theorem exceptionEntrySavesAndJumps : Obligations.ExceptionEntrySavesAndJumps := by
  classical
  intro s f
  refine ⟨?undefined, ?trap, ?saved⟩
  case undefined =>
    rintro pc word rfl
    exact ⟨rfl, rfl, fun hel htge => (State.undefinedTarget_of_el0 hel).trans (if_neg htge),
      fun hel htge => (State.undefinedTarget_of_el0 hel).trans (if_pos htge),
      s.undefinedTarget_of_levelOf .el1, s.undefinedTarget_of_levelOf .el2, s.undefinedTarget_of_levelOf .el3⟩
  case trap =>
    rintro target pc word rfl
    rw [← State.trapRerouted_iff]
    exact ⟨rfl, fun h => s.entry_of_trapRerouted h pc word, fun h => s.entry_of_not_trapRerouted h pc word⟩
  case saved =>
    rw [State.takeException_bank]
    refine ⟨rfl, rfl, rfl, rfl, s.takeException_pstate f, s.takeException_pc f,
      fun _ => State.takeException_bank_other, ?_⟩
    simp

/-! `exceptionReturn` (R90) -/

@[simp] theorem State.exceptionReturn_v (s : State) (x : HandlerEL) : (s.exceptionReturn x).v = s.v := rfl
@[simp] theorem State.exceptionReturn_x (s : State) (x : HandlerEL) : (s.exceptionReturn x).x = s.x := rfl
@[simp] theorem State.exceptionReturn_mem (s : State) (x : HandlerEL) : (s.exceptionReturn x).mem = s.mem := rfl
@[simp] theorem State.exceptionReturn_params (s : State) (x : HandlerEL) : (s.exceptionReturn x).params = s.params := rfl
@[simp] theorem State.exceptionReturn_pc (s : State) (x : HandlerEL) : (s.exceptionReturn x).pc = (s.bank x).elr := rfl
@[simp] theorem State.exceptionReturn_pstate (s : State) (x : HandlerEL) : (s.exceptionReturn x).pstate = (s.bank x).spsr := rfl

/-- Entry and return lead to the pc that the fault recorded. -/
theorem State.pc_exceptionReturn_takeException (s : State) (f : Fault) :
    ((s.takeException f).exceptionReturn (s.entryTarget f)).pc = faultPc f := by
  rw [State.exceptionReturn_pc, State.takeException_bank]

/-- Entry and return give back PSTATE. -/
theorem State.pstate_exceptionReturn_takeException (s : State) (f : Fault) :
    ((s.takeException f).exceptionReturn (s.entryTarget f)).pstate = s.pstate := by
  rw [State.exceptionReturn_pstate, State.takeException_bank]

/-- Settles O43: the return reads what the entry saved in the same bank, and neither writes a register or memory. -/
theorem entryThenReturnRestores : Obligations.EntryThenReturnRestores := by
  intro s f
  refine ⟨s.pc_exceptionReturn_takeException f, s.pstate_exceptionReturn_takeException f, ?_⟩
  simp

/-- Settles O44: the state after the return has the pc and the parameters of the state that faulted, which with the
verdict determine the outcome. -/
theorem returnReexecutesTheInstruction : Obligations.ReturnReexecutesTheInstruction := by
  intro i s f cpacr cptr2 cptr3 hfault u
  have hpc : u.pc = s.pc := (s.pc_exceptionReturn_takeException f).trans (faultPc_of_exec_fault hfault)
  have hparams : u.params = s.params :=
    ((s.takeException f).exceptionReturn_params (s.entryTarget f)).trans (s.takeException_params f)
  rw [← hparams, ← hpc]
  constructor
  · intro hu
    rw [exec_of_undefined hu, hpc, ← hfault, exec_of_undefined (hparams ▸ hu)]
  · intro hu hc hlt
    obtain ⟨d, r, he⟩ := exec_of_enabled_of_lt hu hc hlt
    exact ⟨_, he, rfl⟩

end Sys2Proof.Machine

end

/-! PROOFS. The field values that enable SIMD&FP access (R101). -/

section

namespace Sys2Proof.Machine

/-- FPEN is `11` exactly when both of its bits are set (R32). -/
theorem fpenOf_eq_11_iff {r : BitVec 64} : fpenOf r = 0b11#2 ↔ r.getLsbD 21 = true ∧ r.getLsbD 20 = true := by
  rw [fpenOf_eq_append]
  cases r.getLsbD 21 <;> cases r.getLsbD 20 <;> decide

theorem not_cpacrReason_of_fpenOf {p : Platform} {c : CheckInputs} (h : fpenOf c.cpacrEl1 = 0b11#2) :
    ¬ cpacrReason p c := by
  obtain ⟨h21, h20⟩ := fpenOf_eq_11_iff.mp h
  rintro ⟨-, htrap⟩
  simp only [h21, h20, Bool.true_eq_false, false_and, or_self] at htrap

/-- With E2H the field of CPTR_EL2 is FPEN, without it TFP: the one that is read enables. -/
theorem not_cptrEl2Reason_of_fields {p : Platform} {c : CheckInputs} (htfp : p.hcrE2H = false → tfpOf c.cptrEl2 = false)
    (hfpen : p.hcrE2H = true → fpenOf c.cptrEl2 = 0b11#2) : ¬ cptrEl2Reason p c := by
  rintro ⟨-, -, ⟨he2h, htrap⟩ | ⟨he2h, htrap⟩⟩
  · exact Bool.false_ne_true ((htfp he2h).symm.trans htrap)
  · obtain ⟨h21, h20⟩ := fpenOf_eq_11_iff.mp (hfpen he2h)
    simp only [h21, h20, Bool.true_eq_false, false_and, or_self] at htrap

theorem not_cptrEl3Reason_of_tfpOf {p : Platform} {c : CheckInputs} (h : tfpOf c.cptrEl3 = false) :
    ¬ cptrEl3Reason p c :=
  fun ⟨_, htrap⟩ => Bool.false_ne_true (h.symm.trans htrap)

/-- Settles O41: with these values none of the three tests of R84 has its reason to trap. -/
theorem usualCheckEnablingValues : Obligations.UsualCheckEnablingValues := by
  intro p c hcpacr htfp2 hfpen2 htfp3
  obtain ⟨-, -, -, -, henabled⟩ := usualCheckTrapsUpward p c
  exact henabled.mpr
    ⟨not_cpacrReason_of_fpenOf hcpacr, not_cptrEl2Reason_of_fields htfp2 hfpen2, not_cptrEl3Reason_of_tfpOf htfp3⟩

end Sys2Proof.Machine

end
